-- ==== Sys2Proof/Word.lean ====
section
/-! DEFINITION. The words of the FM tuner register codec: bytes, request and response words, the 14-bit PLL word,
the 5-byte register frame and the mutator operations (00_scope.md R8 to R10, 30_encoding.md R60, R61, R66). -/

namespace Sys2Proof

/-- One byte of a register frame; bit 7 is its most significant bit (R8). -/
abbrev Byte := BitVec 8

/-- A request word `REQ[47:0]` (R60). -/
abbrev ReqWord := BitVec 48

/-- A response word `RSP[47:0]` (R61). -/
abbrev RspWord := BitVec 48

/-- The low 44 bits of a response word (R61, R67). -/
abbrev Payload := BitVec 44

/-- A frame as the 40-bit vector `{byte0, byte1, byte2, byte3, byte4}` (R10, R42). -/
abbrev FrameBits := BitVec 40

/-- A frequency operand `FREQ_KHZ` of a request: unsigned, in kHz, 0 to 262 143 (R73, D4). -/
abbrev FreqKHz := BitVec 18

/-- The PLL word, "a 14-bit unsigned integer" (R30). -/
abbrev PllWord := BitVec 14

/-- A RegisterFrame: "exactly 5 bytes", byte0 to byte4 in bus order (R24, R10). Both views, what the chip is written
and what it returns, are frames (R25, R26); nothing in a frame says which view it is in (R241). -/
structure Frame where
  byte0 : Byte
  byte1 : Byte
  byte2 : Byte
  byte3 : Byte
  byte4 : Byte
  deriving DecidableEq, Repr, Inhabited

/-- The mutation of one bit (R66). The value `2'b11` is no operation: it makes the request illegal (R165). -/
inductive MutOp where
  /-- leave the bit as the reconstruction step left it -/
  | nop
  /-- set the bit to 1 -/
  | set
  /-- clear the bit to 0 -/
  | clr
  deriving DecidableEq, Repr

end Sys2Proof
end

