-- ==== Sys2Proof/Config.lean ====
section
/-! DEFINITION. The parameters the spec fixes (00_scope.md R6, 70_reset_and_hazards.md R233), the one it leaves open
(CHIP_ADDR, D19) and the free values: constants without a body, of which nothing can be proved. -/

namespace Sys2Proof

/-- Why a bus transaction failed: "any failure opening, addressing, writing, or reading the physical transport"; the
causes the document names, and any other (R203). -/
inductive BusError where
  | deviceMissing
  | addressNack
  | shortWrite
  | otherFailure
  deriving DecidableEq, Repr

/-- What the bus and the chip behind it answer to one transaction (R45): it completes whole, and a read then brings a
frame, or it fails, and a write then leaves the chip's register at any value (R52, U1). -/
inductive BusAnswer where
  /-- the transaction completed; `frame` is what a read transfers (a write does not look at it) -/
  | done (frame : Frame)
  /-- the transaction failed; `left` is what a failed write leaves in the chip's register -/
  | failed (cause : BusError) (left : Frame)
  deriving DecidableEq, Repr, Inhabited

namespace Config

/-- `BAND_LO`, kHz (R6). -/
def bandLo : Nat := 87500

/-- `BAND_HI`, kHz (R6). -/
def bandHi : Nat := 108000

/-- `GRID`, kHz (R6). -/
def grid : Nat := 100

/-- `PLL_MULT` (R6). -/
def pllMult : Nat := 4

/-- `IF_OFFSET`, Hz (R6). -/
def ifOffset : Nat := 225000

/-- `REF`, "a fixed reference divisor" (R6). -/
def ref : Nat := 32768

/-- `DEEMPH_50`: the value of byte3 for 50 µs (R6, R123). -/
def deemph50 : Byte := 0x10

/-- `DEEMPH_OTHER`: the value of byte3 for any other time constant (R6, R123). -/
def deemphOther : Byte := 0x00

/-- The largest frequency a request can express, kHz: `2^18 - 1` (R7, R240). -/
def freqMax : Nat := 262143

/-- `SETTLE_TUNE_MS`: the settle delay after a frequency write, "≈120 ms" (R233, U12). DESIGN CHOICE (log 10): the
document's figure is taken as exact. -/
def settleTuneMs : Nat := 120

/-- `SETTLE_MOD_MS`: the settle delay after a bit-only modify write, "≈50 ms" (R233, U12). DESIGN CHOICE (log 10). -/
def settleModMs : Nat := 50

/-- `CHIP_ADDR`: the bus address of the chip, an open parameter (R46, D19; log 11). -/
opaque chipAddr : Nat

/-- What `RSP` shows before the first request: not defined by the spec, never to be read (R220, U6; log 2). -/
opaque rspBeforeFirst : RspWord

/-- The chip's register after power-on: unspecified (R221, U2, D24; log 3). -/
opaque chipPowerOn : Frame

/-- The free value of the `n`-th bus transaction whose answer is not given as an input: any frame, any failure
(R51, R52, R203, U1 to U3, U5, U15; log 7). -/
opaque busAnswer : Nat → BusAnswer

end Config
end Sys2Proof
end

