-- ==== Sys2Proof/Syntax.lean ====
section
/-! DEFINITION. The instructions: one constructor for each row of spec/opcode_table.json (30_encoding.md R60, R76). -/

namespace Sys2Proof

/-- The four instructions of R60 and the five pseudo-instructions of R76, which are rows of the opcode table too. -/
inductive Instr where
  /-- `QUANT <freq_khz>`: the 0.1 MHz clamp (R62, R101) -/
  | quant (freq : FreqKHz)
  /-- `ENC <freq_khz>, <mute>, <stereo>, <de50>`: encode_tune (R63, R120) -/
  | enc (freq : FreqKHz) (mute stereo de50 : Bool)
  /-- `DEC <frame>`: decode_status (R64, R140) -/
  | dec (frame : Frame)
  /-- `MOD <frame>, <mute_op>, <stereo_op>`: modify_frame (R65, R160) -/
  | mod (frame : Frame) (muteOp stereoOp : MutOp)
  /-- `MOD.REWRITE <frame>` = `MOD <frame>, NOP, NOP` (R76) -/
  | modRewrite (frame : Frame)
  /-- `MOD.MUTE <frame>` = `MOD <frame>, SET, NOP` (R76) -/
  | modMute (frame : Frame)
  /-- `MOD.UNMUTE <frame>` = `MOD <frame>, CLR, NOP` (R76) -/
  | modUnmute (frame : Frame)
  /-- `MOD.STEREO <frame>` = `MOD <frame>, NOP, SET` (R76) -/
  | modStereo (frame : Frame)
  /-- `MOD.MONO <frame>` = `MOD <frame>, NOP, CLR` (R76) -/
  | modMono (frame : Frame)
  deriving DecidableEq, Repr

end Sys2Proof
end

