-- ==== Sys2Proof/Machine/State.lean ====
section
/-! DEFINITION. The state of the system the spec describes (00_scope.md R4, 10_state.md): the codec's two ports (the
codec itself has no state, R20 to R23), the chip's register, the host's soft state, and what the host is about to do.
Plain data throughout. -/

namespace Sys2Proof.Machine

/-- The status `ST` of a response (R61). The values `4'h3` to `4'hF` are no status: they are never produced. -/
inductive Status where
  /-- `4'h0`: the instruction completed -/
  | ok
  /-- `4'h1`: ENC was given a frequency outside the band (R200) -/
  | invalidFrequency
  /-- `4'h2`: the request word is not a legal instruction (R201) -/
  | illegalRequest
  deriving DecidableEq, Repr

/-- How much of the next read frame is promised: the chip as "an oracle with one promise" (R51, D20). -/
inductive Standing where
  /-- nothing: no successful write yet, or the last write failed (U1, U2) -/
  | unknown
  /-- nothing yet: the last write succeeded, `left` ms of its settle delay are still to pass (R49, R232, U3) -/
  | settling (left : Nat)
  /-- the PLL bits are those last written (R51) -/
  | settled
  deriving DecidableEq, Repr

/-- The chip at the far end of the bus: its register as last written (R24, R25), and what a read of it is worth. -/
structure Chip where
  reg : Frame
  standing : Standing
  deriving DecidableEq, Repr

/-- TunerState, the host's soft state (R31); `current` in kHz. -/
structure SoftState where
  current : Option Nat
  forcedMono : Bool
  muted : Bool
  deriving DecidableEq, Repr

/-- The two kinds of write that differ in their settle delay (R180 c, R233). -/
inductive WriteKind where
  /-- a frequency write: "≈120 ms" -/
  | frequency
  /-- a bit-only modify write: "≈50 ms" -/
  | modify
  deriving DecidableEq, Repr

/-- The direction of a step (R182, R188). -/
inductive Direction where
  | up
  | down
  deriving DecidableEq, Repr

/-- A caller's frequency, "float MHz" (R188): a finite float is a rational number (log 14). -/
inductive CallerFreq where
  | mhz (x : Rat)
  /-- NaN or an infinity (U11) -/
  | notFinite
  deriving DecidableEq, Repr

/-- What the outside world does next: the host's six macros (R181 to R186), its primitives (R45, R232, R194), and the
restarts and resets of R220 to R222. -/
inductive HostAction where
  /-- a direct request: present any word to the codec and take its response (R194, R207) -/
  | request (w : ReqWord)
  /-- `BusRead()` on its own (R45) -/
  | busRead
  /-- `BusWrite(F)` on its own (R45), any frame (DESIGN CHOICE, log 30); its settle delay is not yet waited for -/
  | busWrite (frame : Frame) (kind : WriteKind)
  /-- `settle(ms)` (R12, R232) -/
  | settle (ms : Nat)
  /-- `tune_to(freq_mhz)` (R181) -/
  | tuneTo (freq : CallerFreq)
  /-- `step(direction)` (R182) -/
  | stepTune (dir : Direction)
  /-- `mute()` (R183) -/
  | mute
  /-- `unmute()` (R184) -/
  | unmute
  /-- `set_forced_mono(flag)` (R185) -/
  | setMono (flag : Bool)
  /-- `read_status()` (R186) -/
  | readStatus
  /-- the host process restarts (R222) -/
  | restart
  /-- the chip is powered on anew (R221) -/
  | chipPowerOn
  /-- the codec is reset (R220) -/
  | codecReset
  deriving DecidableEq, Repr

/-- The composite status of `read_status()` (R186); the frequency in kHz, which is MHz with three decimals (R73). -/
structure StatusReport where
  ifReady : Bool
  stereo : Bool
  signal : BitVec 4
  freqKHz : Int
  muted : Bool
  raw : Frame
  deriving DecidableEq, Repr

/-- What the host's last operation returned to its caller (R181, R186, R188, R190). -/
inductive Reply where
  /-- nothing has been returned yet -/
  | nothing
  /-- the operation is complete and returns no value -/
  | done
  /-- the committed frequency in kHz (R181, R182) -/
  | committed (khz : Nat)
  /-- the composite status (R186) -/
  | status (report : StatusReport)
  /-- the frame a bare `BusRead()` brought -/
  | frame (f : Frame)
  /-- `BusError`, propagated unchanged (R180 b, R203) -/
  | busError (cause : BusError)
  /-- the payload of an OK response to a direct request (R194, R207) -/
  | response (payload : Payload)
  /-- a codec error, propagated unchanged (R190, R207) -/
  | codecError (st : Status)
  deriving DecidableEq, Repr

/-- A completed bus transfer: the address (R46) and the bytes in bus order (R41). -/
inductive Transfer where
  | write (address : Nat) (bytes : List Byte)
  | read (address : Nat) (bytes : List Byte)
  deriving DecidableEq, Repr

/-- The whole state. -/
structure State where
  /-- the request port: a request presented from outside the host's actions and not yet answered (R60, R209, R242) -/
  req : Option ReqWord
  /-- the response port: the last response (R61) -/
  rsp : RspWord
  /-- the chip (R24, R51) -/
  chip : Chip
  /-- the host's soft state (R31) -/
  soft : SoftState
  /-- what the host's last operation returned -/
  reply : Reply
  /-- the faults of R207 the host has been answered, newest first: "keep it recorded on the host side" (log 31) -/
  faults : List Status
  /-- what the host does next, first action first -/
  agenda : List HostAction
  /-- the answers of the next bus transactions, as far as they are given as inputs -/
  busInputs : List BusAnswer
  /-- how many bus transactions have been answered: the counter of the free value `Config.busAnswer` -/
  busCount : Nat
  /-- the completed bus transfers, newest first -/
  wire : List Transfer
  deriving DecidableEq, Repr

/-- No step of this machine ends in a fault: the codec's errors are completed responses (R206, R242) and a `BusError`
is reported to the caller of a host operation (R203). There is no constructor (log 24). -/
inductive Fault where
  deriving DecidableEq, Repr

/-- Why a step has no meaning. -/
inductive Refusal where
  /-- raised by an arm of `exec` whose instruction has no meaning yet; safe -/
  | notModelled (mnemonic : String)
  /-- raised by `tune_to` of a frequency that is not a finite number: "the conversion to kHz is not defined for it; it
  never reaches the codec" (U11); safe -/
  | nonFiniteFrequency
  /-- raised by a host's request that is answered with an `ST` of `4'h3` to `4'hF`: "something that is not this codec" (U14); safe; no run
  reaches it -/
  | foreignStatus
  deriving DecidableEq, Repr

/-- A step's outcome in this machine. -/
abbrev Result := Host.Outcome State Fault Refusal

/-- Reset (R34, R220 to R223): no request presented, nothing known of the chip, soft state as at process start. `RSP` and
the chip's register have no value in the spec: they are free constants (log 2, 3). The model's own fields start empty
(log 8). -/
def State.reset : State where
  req := none
  rsp := Config.rspBeforeFirst
  chip := { reg := Config.chipPowerOn, standing := .unknown }
  soft := { current := none, forcedMono := false, muted := false }
  reply := .nothing
  faults := []
  agenda := []
  busInputs := []
  busCount := 0
  wire := []

end Sys2Proof.Machine
end

