-- ==== Sys2Proof/Machine/Flags.lean ====
section
/-! DEFINITION. The only status the codec produces: the 4-bit field `ST` of a response (10_state.md R23, 30_encoding.md
R61), and how a host reads it (60_exceptions.md R207). -/

namespace Sys2Proof.Machine

/-- The code of a status (R61). -/
def Status.code : Status → BitVec 4
  | .ok => 0x0#4
  | .invalidFrequency => 0x1#4
  | .illegalRequest => 0x2#4

/-- `ST = RSP[47:44]` (R61). -/
def stField (r : RspWord) : BitVec 4 := r.extractLsb' 44 4

/-- `RSP[43:0]` (R61). -/
def payloadField (r : RspWord) : Payload := r.extractLsb' 0 44

/-- The status a response reports; `none` for the values the codec never produces (R61, U14). -/
def statusOf (r : RspWord) : Option Status :=
  if stField r = 0x0#4 then some .ok
  else if stField r = 0x1#4 then some .invalidFrequency
  else if stField r = 0x2#4 then some .illegalRequest
  else none

/-- How a host takes a response (R207): a result, a fault the document defines, or a refusal of the word. -/
inductive StatusKind where
  | result
  | fault
  | refusal
  deriving DecidableEq, Repr

/-- InvalidFrequency is a fault, IllegalRequest a refusal (R207). -/
def Status.kind : Status → StatusKind
  | .ok => .result
  | .invalidFrequency => .fault
  | .illegalRequest => .refusal

/-- A response with status `st` and payload `p` (R61). -/
def responseWord (st : Status) (p : Payload) : RspWord := st.code ++ p

end Sys2Proof.Machine
end

