-- ==== Sys2Proof/WellFormed.lean ====
section
/-! DEFINITION. Well-formed instructions. Every operand of every constructor has exactly the values its field admits
(30_encoding.md R62 to R66), so the one check left is that an instruction is written under its own name: a MOD whose
mutator R76 names is the pseudo-instruction of that name (log 5). -/

namespace Sys2Proof

/-- R76 gives the mutators that leave at least one of the two bits alone a pseudo-instruction of their own. -/
def hasOwnName : MutOp → MutOp → Bool
  | .nop, _ => true
  | _, .nop => true
  | _, _ => false

/-- An instruction as the decoder answers it: each request word is written in exactly one way. -/
def Instr.wellFormed : Instr → Bool
  | .quant _ => true
  | .enc _ _ _ _ => true
  | .dec _ => true
  | .mod _ m s => !hasOwnName m s
  | .modRewrite _ => true
  | .modMute _ => true
  | .modUnmute _ => true
  | .modStereo _ => true
  | .modMono _ => true

/-- `i` is well-formed. -/
abbrev Instr.WellFormed (i : Instr) : Prop := i.wellFormed = true

end Sys2Proof
end

