-- ==== Sys2Proof/Decode.lean ====
section
/-! DEFINITION. Encoding and decoding of request words (30_encoding.md R60, R62 to R66, R69, R70, R76, R78): a decoder
that is total on all 2^48 words and rejects by name, and after it the encoder, each written from the format tables. -/

namespace Sys2Proof

/-- The 40-bit vector of a frame: `F = {byte0, byte1, byte2, byte3, byte4}` (R10, R42). -/
def Frame.toBits (f : Frame) : FrameBits :=
  f.byte0 ++ f.byte1 ++ f.byte2 ++ f.byte3 ++ f.byte4

/-- The frame of a 40-bit vector: `byte0 = F[39:32]` and so on down to `byte4 = F[7:0]` (R10, R42). -/
def Frame.ofBits (v : FrameBits) : Frame where
  byte0 := v.extractLsb' 32 8
  byte1 := v.extractLsb' 24 8
  byte2 := v.extractLsb' 16 8
  byte3 := v.extractLsb' 8 8
  byte4 := v.extractLsb' 0 8

/-- The value of a mutator field (R66). -/
def MutOp.toBits : MutOp → BitVec 2
  | .nop => 0b00#2
  | .set => 0b01#2
  | .clr => 0b10#2

/-- The mutator a field value selects; `2'b11` is reserved (R66). -/
def MutOp.ofBits (v : BitVec 2) : Option MutOp :=
  if v = 0b00#2 then some .nop
  else if v = 0b01#2 then some .set
  else if v = 0b10#2 then some .clr
  else none

/-- Why a request word is no legal instruction: the three cases of R69. -/
inductive IllegalReason where
  /-- (a) `OP` is `4'h0` or `4'h5` to `4'hF` -/
  | reservedOpcode
  /-- (b) `MUTE_OP` or `STEREO_OP` of a MOD is `2'b11` -/
  | reservedMutator
  /-- (c) a reserved field of the format is not zero (R70) -/
  | reservedBits
  deriving DecidableEq, Repr

/-- What decoding a request word gives. -/
inductive Decoded where
  /-- the word is this instruction -/
  | legal (i : Instr)
  /-- the word is no legal instruction, for this reason (R69) -/
  | illegal (why : IllegalReason)
  deriving DecidableEq, Repr

/-- The frame operand of formats D and M: `REQ[39:0]` (R64, R65). -/
def frameField (w : ReqWord) : Frame := Frame.ofBits (w.extractLsb' 0 40)

/-- The frequency operand of formats Q and E: `REQ[17:0]` (R62, R63). -/
def freqField (w : ReqWord) : FreqKHz := w.extractLsb' 0 18

/-- The decoder of R78, letter for letter: it answers the four instructions of R60 alone. -/
def decodeCore (w : ReqWord) : Decoded :=
  let op := w.extractLsb' 44 4
  if op = 1#4 then
    if w.extractLsb' 18 26 ≠ 0 then .illegal .reservedBits
    else .legal (.quant (freqField w))
  else if op = 2#4 then
    if w.extractLsb' 21 23 ≠ 0 then .illegal .reservedBits
    else .legal (.enc (freqField w) (w.getLsbD 18) (w.getLsbD 19) (w.getLsbD 20))
  else if op = 3#4 then
    if w.extractLsb' 40 4 ≠ 0 then .illegal .reservedBits
    else .legal (.dec (frameField w))
  else if op = 4#4 then
    match MutOp.ofBits (w.extractLsb' 40 2), MutOp.ofBits (w.extractLsb' 42 2) with
    | some m, some s => .legal (.mod (frameField w) m s)
    | _, _ => .illegal .reservedMutator
  else .illegal .reservedOpcode

/-- The name R76 gives a MOD with one of its mutators (log 5). -/
def Instr.named : Instr → Instr
  | .quant f => .quant f
  | .enc f m s d => .enc f m s d
  | .dec f => .dec f
  | .mod f .nop .nop => .modRewrite f
  | .mod f .set .nop => .modMute f
  | .mod f .clr .nop => .modUnmute f
  | .mod f .nop .set => .modStereo f
  | .mod f .nop .clr => .modMono f
  | .mod f m s => .mod f m s
  | .modRewrite f => .modRewrite f
  | .modMute f => .modMute f
  | .modUnmute f => .modUnmute f
  | .modStereo f => .modStereo f
  | .modMono f => .modMono f

/-- The expansion of a pseudo-instruction (R76): the instruction of R60 it stands for. -/
def Instr.expand : Instr → Instr
  | .quant f => .quant f
  | .enc f m s d => .enc f m s d
  | .dec f => .dec f
  | .mod f m s => .mod f m s
  | .modRewrite f => .mod f .nop .nop
  | .modMute f => .mod f .set .nop
  | .modUnmute f => .mod f .clr .nop
  | .modStereo f => .mod f .nop .set
  | .modMono f => .mod f .nop .clr

/-- The decoder of the machine: R78, with the words that R76 names answered under that name (log 5). -/
def decode (w : ReqWord) : Decoded :=
  match decodeCore w with
  | .legal i => .legal i.named
  | .illegal why => .illegal why

/-- The request word of an instruction, from the format tables R62 to R65 and the expansions of R76. -/
def encode : Instr → ReqWord
  | .quant freq => 0x1#4 ++ 0#26 ++ freq
  | .enc freq mute stereo de50 =>
      0x2#4 ++ 0#23 ++ BitVec.ofBool de50 ++ BitVec.ofBool stereo ++ BitVec.ofBool mute ++ freq
  | .dec frame => 0x3#4 ++ 0#4 ++ frame.toBits
  | .mod frame muteOp stereoOp => 0x4#4 ++ stereoOp.toBits ++ muteOp.toBits ++ frame.toBits
  | .modRewrite frame => 0x40#8 ++ frame.toBits
  | .modMute frame => 0x41#8 ++ frame.toBits
  | .modUnmute frame => 0x42#8 ++ frame.toBits
  | .modStereo frame => 0x44#8 ++ frame.toBits
  | .modMono frame => 0x48#8 ++ frame.toBits

/-- `OP = REQ[47:44]` of an instruction (R60). -/
def Instr.opcode : Instr → BitVec 4
  | .quant _ => 0x1#4
  | .enc _ _ _ _ => 0x2#4
  | .dec _ => 0x3#4
  | .mod _ _ _ => 0x4#4
  | .modRewrite _ => 0x4#4
  | .modMute _ => 0x4#4
  | .modUnmute _ => 0x4#4
  | .modStereo _ => 0x4#4
  | .modMono _ => 0x4#4

/-- The `match` column of the opcode table (R78 and spec/opcode_table.json). -/
def Instr.matchBits : Instr → ReqWord
  | .quant _ => 0x100000000000#48
  | .enc _ _ _ _ => 0x200000000000#48
  | .dec _ => 0x300000000000#48
  | .mod _ _ _ => 0x400000000000#48
  | .modRewrite _ => 0x400000000000#48
  | .modMute _ => 0x410000000000#48
  | .modUnmute _ => 0x420000000000#48
  | .modStereo _ => 0x440000000000#48
  | .modMono _ => 0x480000000000#48

/-- The `mask` column of the opcode table (R78 and spec/opcode_table.json). -/
def Instr.maskBits : Instr → ReqWord
  | .quant _ => 0xFFFFFFFC0000#48
  | .enc _ _ _ _ => 0xFFFFFFE00000#48
  | .dec _ => 0xFF0000000000#48
  | .mod _ _ _ => 0xF00000000000#48
  | .modRewrite _ => 0xFF0000000000#48
  | .modMute _ => 0xFF0000000000#48
  | .modUnmute _ => 0xFF0000000000#48
  | .modStereo _ => 0xFF0000000000#48
  | .modMono _ => 0xFF0000000000#48

/-- The request word a table row's bits stand for: the one 48-bit word of the instruction, numbered as the table numbers
it, every bit above `nbits` zero (log 22). -/
def tableWord (nbits w : Nat) : ReqWord := BitVec.ofNat 48 (w % 2 ^ nbits)

/-- The instruction this decoder reads from an instruction whose bits are `w`. -/
def decodeTableWord (nbits w : Nat) : Option Instr :=
  match decode (tableWord nbits w) with
  | .legal i => some i
  | .illegal _ => none

end Sys2Proof
end

