-- ==== Sys2Proof/Machine/Operands.lean ====
section
/-! DEFINITION. The fields of a frame and of a payload: extraction and insertion, which in this hardware play the part of
load and store (20_memory.md R40): the views R25 and R26, the PLL word R30 and R72, the mutator R66 and R162, the
response formats R67. -/

namespace Sys2Proof.Machine

/-- The five bytes of a frame in bus order, byte0 first (R41). -/
def busBytes (f : Frame) : List Byte := [f.byte0, f.byte1, f.byte2, f.byte3, f.byte4]

/-- A byte with its bit 7 replaced: `{v, b[6:0]}` (R9, R160). -/
def withBit7 (b : Byte) (v : Bool) : Byte := BitVec.ofBool v ++ b.extractLsb' 0 7

/-- byte0 bit 7: `IF_READY` in the read view, `MUTE` in the write view (R25, R26, R27). -/
def byte0Bit7 (f : Frame) : Bool := f.byte0.getLsbD 7

/-- byte2 bit 7: `STEREO_DET` in the read view, `STEREO_EN` in the write view (R25, R26). -/
def byte2Bit7 (f : Frame) : Bool := f.byte2.getLsbD 7

/-- byte3 bits[7:4]: `SIGNAL` in the read view, the de-emphasis selector in the write view (R25, R26). -/
def byte3High (f : Frame) : BitVec 4 := f.byte3.extractLsb' 4 4

/-- `PLL = {byte0[5:0], byte1[7:0]}`, 14 bits, unsigned (R30, R72). -/
def pllField (f : Frame) : PllWord := f.byte0.extractLsb' 0 6 ++ f.byte1

/-- Insertion of a PLL word: `byte0[5:0] <- PLL[13:8]`, `byte1 <- PLL[7:0]` (R72). -/
def withPll (f : Frame) (p : PllWord) : Frame :=
  { f with byte0 := f.byte0.extractLsb' 6 2 ++ p.extractLsb' 8 6, byte1 := p.extractLsb' 0 8 }

/-- The effect of a mutator operation on bit 7 of a byte (R66, R162). -/
def mutateBit7 (op : MutOp) (b : Byte) : Byte :=
  match op with
  | .nop => b
  | .set => withBit7 b true
  | .clr => withBit7 b false

/-- The payload that carries a frame: `RSP[43:40]` zero, `RSP[39:0]` the frame (R67, ENC and MOD). -/
def framePayload (f : Frame) : Payload := 0#4 ++ f.toBits

/-- The frame in a payload: `RSP[39:0]` (R67, ENC and MOD). -/
def payloadFrame (p : Payload) : Frame := Frame.ofBits (p.extractLsb' 0 40)

/-- `FQ_KHZ`: `RSP[16:0]` (R67, QUANT). -/
def payloadFq (p : Payload) : BitVec 17 := p.extractLsb' 0 17

/-- `IF_READY`: `RSP[24]` (R67, DEC). -/
def payloadIfReady (p : Payload) : Bool := p.getLsbD 24

/-- `STEREO`: `RSP[23]` (R67, DEC). -/
def payloadStereo (p : Payload) : Bool := p.getLsbD 23

/-- `SIGNAL`: `RSP[22:19]` (R67, DEC). -/
def payloadSignal (p : Payload) : BitVec 4 := p.extractLsb' 19 4

/-- `FREQ_KHZ_S`: `RSP[18:0]`, 19-bit two's complement (R67, DEC; R73). -/
def payloadFreqS (p : Payload) : BitVec 19 := p.extractLsb' 0 19

end Sys2Proof.Machine
end

