-- ==== Sys2Proof/Machine/Quantizer.lean ====
section
/-! DEFINITION. The frequency quantisers, in exact integer arithmetic (40_quantizer.md R100, R102, R103, R105). -/

namespace Sys2Proof.Machine

/-- The grid quantiser: the nearest multiple of 100 kHz, an exact half going up, clamped to the band (R100, D11). -/
def gridQuant (f : Nat) : Nat :=
  let t := (f + Config.grid / 2) / Config.grid
  let k := min (max t (Config.bandLo / Config.grid)) (Config.bandHi / Config.grid)
  Config.grid * k

/-- The PLL quantiser: `4 × (freq_Hz + 225 000) / 32 768` with `freq_Hz = 1000 * f`, the floor taken (R102, D10). Defined
on every frequency; ENC uses it inside the band only (R121, U10). -/
def pllOfKHz (f : Nat) : Nat :=
  Config.pllMult * (1000 * f + Config.ifOffset) / Config.ref

/-- The inverse PLL formula, to the nearest kHz; a tie never occurs (R103, R104). `/` and `%` on `Int` by a positive
number are floor division and its remainder (R11). -/
def khzOfPll (p : Nat) : Int :=
  let hz : Int := p * (Config.ref / Config.pllMult : Nat) - Config.ifOffset
  let q := hz / 1000
  let r := hz % 1000
  q + (if r > 500 then 1 else 0)

/-- ENC's range check: the band, both ends inclusive (R121). -/
def inBand (f : Nat) : Bool := decide (Config.bandLo ≤ f) && decide (f ≤ Config.bandHi)

/-- `tc_19(i)`: 19-bit two's complement (R11, R73). -/
def tc19 (i : Int) : BitVec 19 := BitVec.ofInt 19 i

/-- `int_19(v)`: the signed integer a 19-bit vector encodes (R11). -/
def int19 (v : BitVec 19) : Int := v.toInt

/-- The host's saturation of a frequency to what a request can express: 0 to 262 143 kHz (R188, R240, D22). -/
def saturateKHz (i : Int) : FreqKHz := BitVec.ofInt 18 (min (max i 0) Config.freqMax)

/-- The host's conversion of a finite number of MHz: `floor(1000 * f_MHz)`, then saturation (R188, D22). -/
def khzOfMHz (x : Rat) : FreqKHz := saturateKHz (1000 * x).floor

end Sys2Proof.Machine
end

