-- ==== Sys2Proof/Machine/Ops.lean ====
section
/-! DEFINITION. The named operations the meanings and the macros are made of: what the codec does to its response port
(00_scope.md R12, 60_exceptions.md R206), what the host does with an error response (R207), and the host's bus transactions and settle delay (20_memory.md R45, R49, R51,
R52, 70_reset_and_hazards.md R232). -/

namespace Sys2Proof.Machine

/-- `RSP <- v`: the only write the codec ever performs (R12). -/
def driveRsp (v : RspWord) (s : State) : State := { s with rsp := v }

/-- `respond_ok(payload)`: `RSP <- {4'h0, payload}` (R12). -/
def respondOk (p : Payload) (s : State) : State := driveRsp (responseWord .ok p) s

/-- Taking an error, the codec's whole "trap entry": `RSP <- {code, 44'b0}`. Nothing is saved, no mode changes, control
goes nowhere (R206, R68). There is nothing to return from: the next request starts clean (R208). -/
def raise (e : Status) (s : State) : State := driveRsp (responseWord e 0) s

/-- A host operation ends and returns this to its caller. -/
def returning (r : Reply) (s : State) : State := { s with reply := r }

/-- The host's record of an error response: a fault is "kept recorded on the host side", a refusal is not (R207; the form of
the record is log 31). -/
def recordFault (e : Status) (s : State) : State :=
  match e.kind with
  | .fault => { s with faults := e :: s.faults }
  | .refusal => s
  | .result => s

/-- The host takes an error response: a fault is recorded, the error goes to the caller unchanged, the soft state is not
updated, the payload not looked at (R207). -/
def takeError (e : Status) (s : State) : State := returning (.codecError e) (recordFault e s)

/-- What follows in a macro, if the machine goes on. -/
def andThen (o : Result) (next : State → Result) : Result :=
  match o with
  | .next s => next s
  | .fault f => .fault f
  | .refused r => .refused r

/-- The answer of the bus to the next transaction: the one given as an input, else the free value (log 7). -/
def busAnswer (s : State) : BusAnswer := s.busInputs.headD (Config.busAnswer s.busCount)

/-- One bus answer is used up. -/
def tickBus (s : State) : State :=
  { s with busInputs := s.busInputs.tail, busCount := s.busCount + 1 }

/-- The frame a read brings when the chip and the bus offer `raw`: with the write before it settled, the PLL bits are those
last written, and every other bit is free; otherwise every bit is free (R51, D20, U1, U2, U3, U5, U15). -/
def readFrame (c : Chip) (raw : Frame) : Frame :=
  match c.standing with
  | .settled => withPll raw (pllField c.reg)
  | .settling _ => raw
  | .unknown => raw

/-- `BusRead()`: five bytes, byte0 first, or `BusError`, which ends the operation (R45, R180 b). A failed read leaves the
chip as it was (log 18). -/
def busRead (s : State) (next : Frame → State → Result) : Result :=
  match busAnswer s with
  | .done raw =>
      let f := readFrame s.chip raw
      next f { tickBus s with wire := .read Config.chipAddr (busBytes f) :: s.wire }
  | .failed cause _ => .next (returning (.busError cause) (tickBus s))

/-- The settle delay a write of this kind asks for, in ms (R180 c, R233). -/
def settleMs : WriteKind → Nat
  | .frequency => Config.settleTuneMs
  | .modify => Config.settleModMs

/-- `BusWrite(F)`: five bytes, byte0 first; the settle delay then begins. DESIGN CHOICE (log 30): any frame is written and
keeps R51's promise, one that came from neither ENC nor MOD too, which R194 says the host must never write. Or `BusError`, which ends the operation; the
chip's register may then hold anything (R45, R49, R52, U1). -/
def busWrite (f : Frame) (kind : WriteKind) (s : State) (next : State → Result) : Result :=
  match busAnswer s with
  | .done _ =>
      next { tickBus s with
        chip := { reg := f, standing := .settling (settleMs kind) }
        wire := .write Config.chipAddr (busBytes f) :: s.wire }
  | .failed cause left =>
      .next (returning (.busError cause)
        { tickBus s with chip := { reg := left, standing := .unknown } })

/-- The standing after `ms` more milliseconds (R232, log 10). -/
def Standing.wait (ms : Nat) : Standing → Standing
  | .unknown => .unknown
  | .settling left => if left ≤ ms then .settled else .settling (left - ms)
  | .settled => .settled

/-- `settle(ms)`: the host waits (R12, R232). -/
def settle (ms : Nat) (s : State) : State :=
  { s with chip := { s.chip with standing := s.chip.standing.wait ms } }

end Sys2Proof.Machine
end

