-- ==== Sys2Proof/Machine/DecodeStatus.lean ====
section
/-! DEFINITION. DEC, decode_status: a frame read from the chip, interpreted (42_decode.md R140 to R143). -/

namespace Sys2Proof.Machine

/-- The decoded frequency of a frame, signed kHz: not clamped, not brought to the grid (R140, R143). -/
def decodedKHz (f : Frame) : Int := khzOfPll (pllField f).toNat

/-- The payload of DEC: `{if_ready, stereo, signal, tc_19(f)}` (R140, R67). Bits DEC does not name are ignored (R141). -/
def statusPayload (f : Frame) : Payload :=
  0#19 ++ BitVec.ofBool (byte0Bit7 f) ++ BitVec.ofBool (byte2Bit7 f) ++ byte3High f ++ tc19 (decodedKHz f)

/-- DEC: every frame decodes (R140, R142). -/
def execDec (frame : Frame) (s : State) : Result :=
  .next (respondOk (statusPayload frame) s)

end Sys2Proof.Machine
end

