-- ==== Sys2Proof/Machine/EncodeTune.lean ====
section
/-! DEFINITION. ENC, encode_tune: a complete write frame from a frequency and three control bits (41_encode.md R120 to
R124). -/

namespace Sys2Proof.Machine

/-- De-emphasis: byte3 is `0x10` "for 50µs, else `0x00`" (R123). -/
def deemphByte (de50 : Bool) : Byte := if de50 then Config.deemph50 else Config.deemphOther

/-- The write frame of ENC (R120): the PLL word and the mute bit in byte0 and byte1, the stereo-enable bit in byte2 (R122),
de-emphasis in byte3 (R123), byte4 zero; nothing sets the other bits, which are 0 (R124). -/
def encodeFrame (freq : Nat) (mute stereo de50 : Bool) : Frame :=
  let p : PllWord := BitVec.ofNat 14 (pllOfKHz freq)
  { byte0 := BitVec.ofBool mute ++ 0#1 ++ p.extractLsb' 8 6
    byte1 := p.extractLsb' 0 8
    byte2 := BitVec.ofBool stereo ++ 0#7
    byte3 := deemphByte de50
    byte4 := 0x00 }

/-- ENC: InvalidFrequency outside the band, both ends being legal; the frame otherwise (R120, R121). -/
def execEnc (freq : FreqKHz) (mute stereo de50 : Bool) (s : State) : Result :=
  if inBand freq.toNat then
    .next (respondOk (framePayload (encodeFrame freq.toNat mute stereo de50)) s)
  else
    .next (raise .invalidFrequency s)

end Sys2Proof.Machine
end

