-- ==== Sys2Proof/Machine/Grid.lean ====
section
/-! DEFINITION. QUANT, the clamp to the band at 0.1 MHz granularity (40_quantizer.md R101). -/

namespace Sys2Proof.Machine

/-- QUANT: `respond_ok(zext_44(fq[16:0]))` (R101). Never InvalidFrequency: it clamps. -/
def execQuant (freq : FreqKHz) (s : State) : Result :=
  let fq := gridQuant freq.toNat
  .next (respondOk ((BitVec.ofNat 17 fq).setWidth 44) s)

end Sys2Proof.Machine
end

