-- ==== Sys2Proof/Machine/ModifyFrame.lean ====
section
/-! DEFINITION. MOD, modify_frame: a read frame turned into a write frame that keeps the tuned frequency (43_modify.md
R160 to R168), and its five pseudo-instructions (30_encoding.md R76). -/

namespace Sys2Proof.Machine

/-- Step 1, the reconstruction of the write frame: `byte0[7] <- 0`, `byte3 <- 0x10`, `byte4 <- 0x00`; every other bit is
kept verbatim (R161, R164). -/
def reconstruct (f : Frame) : Frame :=
  { f with byte0 := withBit7 f.byte0 false, byte3 := Config.deemph50, byte4 := 0x00 }

/-- Step 2, the mutation: `MUTE_OP` on `byte0[7]`, `STEREO_OP` on `byte2[7]` (R162). -/
def mutate (muteOp stereoOp : MutOp) (f : Frame) : Frame :=
  { f with byte0 := mutateBit7 muteOp f.byte0, byte2 := mutateBit7 stereoOp f.byte2 }

/-- modify_frame: reconstruction first, then the mutation (R163). -/
def modifyFrame (f : Frame) (muteOp stereoOp : MutOp) : Frame :=
  mutate muteOp stereoOp (reconstruct f)

/-- The response of a MOD. -/
def respondModified (f : Frame) (muteOp stereoOp : MutOp) (s : State) : State :=
  respondOk (framePayload (modifyFrame f muteOp stereoOp)) s

/-- MOD: every frame is accepted; the value of the PLL word is not looked at (R160, R166, R168). -/
def execMod (frame : Frame) (muteOp stereoOp : MutOp) (s : State) : Result :=
  .next (respondModified frame muteOp stereoOp s)

/-- MOD.REWRITE: `MOD <frame>, NOP, NOP` (R76). -/
def execModRewrite (frame : Frame) (s : State) : Result :=
  .next (respondModified frame .nop .nop s)

/-- MOD.MUTE: `MOD <frame>, SET, NOP` (R76). -/
def execModMute (frame : Frame) (s : State) : Result :=
  .next (respondModified frame .set .nop s)

/-- MOD.UNMUTE: `MOD <frame>, CLR, NOP` (R76). -/
def execModUnmute (frame : Frame) (s : State) : Result :=
  .next (respondModified frame .clr .nop s)

/-- MOD.STEREO: `MOD <frame>, NOP, SET` (R76). -/
def execModStereo (frame : Frame) (s : State) : Result :=
  .next (respondModified frame .nop .set s)

/-- MOD.MONO: `MOD <frame>, NOP, CLR` (R76). -/
def execModMono (frame : Frame) (s : State) : Result :=
  .next (respondModified frame .nop .clr s)

end Sys2Proof.Machine
end

