-- ==== Sys2Proof/Machine/Dispatch.lean ====
section
/-! DEFINITION. One arm per constructor of Instr: which meaning an instruction has. -/

namespace Sys2Proof.Machine

def exec (i : Instr) (s : State) : Host.Outcome State Fault Refusal :=
  match i with
  | .quant freq => Sys2Proof.Machine.execQuant freq s
  | .enc freq mute stereo de50 => Sys2Proof.Machine.execEnc freq mute stereo de50 s
  | .dec frame => Sys2Proof.Machine.execDec frame s
  | .mod frame muteOp stereoOp => Sys2Proof.Machine.execMod frame muteOp stereoOp s
  | .modRewrite frame => Sys2Proof.Machine.execModRewrite frame s
  | .modMute frame => Sys2Proof.Machine.execModMute frame s
  | .modUnmute frame => Sys2Proof.Machine.execModUnmute frame s
  | .modStereo frame => Sys2Proof.Machine.execModStereo frame s
  | .modMono frame => Sys2Proof.Machine.execModMono frame s

end Sys2Proof.Machine
end

