-- ==== Sys2Proof/Machine/Request.lean ====
section
/-! DEFINITION. The codec as a whole: one request, one response (10_state.md R20, 30_encoding.md R78), and a host's use of
it (60_exceptions.md R207). -/

namespace Sys2Proof.Machine

/-- The codec answers a request word: the decoded instruction runs; a word that is no legal instruction answers
IllegalRequest and nothing else (R69, R78, R201). -/
def answer (w : ReqWord) (s : State) : Result :=
  match decode w with
  | .legal i => exec i s
  | .illegal _ => .next (raise .illegalRequest s)

/-- `step : Request -> Response` of R20: the response word of a request word, read off the port of a fresh machine. -/
def codec (w : ReqWord) : RspWord :=
  match answer w State.reset with
  | .next t => t.rsp
  | .fault _ => 0
  | .refused _ => 0

/-- The host takes the response on the port: it looks at `ST` before it uses the payload; OK hands the payload on, an error
ends the operation (R207, R194). -/
def takeResponse (next : Payload → State → Result) (s : State) : Result :=
  match statusOf s.rsp with
  | some .ok => next (payloadField s.rsp) s
  | some .invalidFrequency => .next (takeError .invalidFrequency s)
  | some .illegalRequest => .next (takeError .illegalRequest s)
  | none => .refused .foreignStatus

/-- A host's use of the codec: one request word, its response taken (R194, R207). -/
def callWord (w : ReqWord) (s : State) (next : Payload → State → Result) : Result :=
  andThen (answer w s) (takeResponse next)

/-- A host's use of the codec inside a macro: the request is an instruction (R190). -/
def callCodec (i : Instr) (s : State) (next : Payload → State → Result) : Result :=
  callWord (encode i) s next

end Sys2Proof.Machine
end

