-- ==== Sys2Proof/Machine/Macros.lean ====
section
/-! DEFINITION. What the host does (44_host_macros.md R180 to R191): the six public operations as sequences of codec
requests and bus transactions, each atomic (20_memory.md R48), direct requests (R194, 60_exceptions.md R207), and the bare
primitives. -/

namespace Sys2Proof.Machine

/-- The end of every macro that writes: the write, the settle delay its kind asks for, and only then, the write having
succeeded, the soft state and the reply (R180 b, c). -/
def writeBack (f : Frame) (kind : WriteKind) (update : SoftState → SoftState) (r : Reply) (s : State) : Result :=
  busWrite f kind s fun s =>
  let s := settle (settleMs kind) s
  .next (returning r { s with soft := update s.soft })

/-- The common end of TUNE_TO and STEP (R181, R182): quantise, encode with `mute = 0`, the stereo policy and 50 µs, write,
settle, and only then update `current_frequency`. -/
def writeTune (freq : FreqKHz) (s : State) : Result :=
  callCodec (.quant freq) s fun q s =>
  callCodec (.enc ((payloadFq q).setWidth 18) false (!s.soft.forcedMono) true) s fun w s =>
  let khz := (payloadFq q).toNat
  writeBack (payloadFrame w) .frequency (fun soft => { soft with current := some khz }) (.committed khz) s

/-- TUNE_TO (R181), the caller's frequency converted as R188 says. -/
def hostTuneTo (freq : CallerFreq) (s : State) : Result :=
  match freq with
  | .mhz x => writeTune (khzOfMHz x) s
  | .notFinite => .refused .nonFiniteFrequency

/-- "`current ± 0.1`" in kHz, never below 0 (R182, D22). -/
def stepTarget (dir : Direction) (cur : Int) : Int :=
  match dir with
  | .up => cur + Config.grid
  | .down => max (cur - Config.grid) 0

/-- STEP (R182): from the commanded frequency, or, when there is none, from a status read; a negative seed becomes 0. -/
def hostStep (dir : Direction) (s : State) : Result :=
  match s.soft.current with
  | some cur => writeTune (saturateKHz (stepTarget dir cur)) s
  | none =>
      busRead s fun r s =>
      callCodec (.dec r) s fun d s =>
      let cur := max (int19 (payloadFreqS d)) 0
      writeTune (saturateKHz (stepTarget dir cur)) s

/-- A read-modify-write (R183 to R185): read, MOD, write, settle, and only then the soft state. -/
def modifyWrite (muteOp stereoOp : MutOp) (update : SoftState → SoftState) (s : State) : Result :=
  busRead s fun r s =>
  callCodec (.mod r muteOp stereoOp) s fun w s =>
  writeBack (payloadFrame w) .modify update .done s

/-- MUTE (R183). -/
def hostMute (s : State) : Result :=
  modifyWrite .set .nop (fun soft => { soft with muted := true }) s

/-- UNMUTE (R184). -/
def hostUnmute (s : State) : Result :=
  modifyWrite .clr .nop (fun soft => { soft with muted := false }) s

/-- SET_MONO (R185): the flag is set after the successful write (C5); the mutator leaves the mute bit alone, which
reconstruction has cleared (C3, R237). -/
def hostSetMono (flag : Bool) (s : State) : Result :=
  modifyWrite .nop (if flag then .clr else .set) (fun soft => { soft with forcedMono := flag }) s

/-- READ_STATUS (R186): the soft `muted` flag and the raw bytes are merged in; no soft-state field changes. -/
def hostReadStatus (s : State) : Result :=
  busRead s fun r s =>
  callCodec (.dec r) s fun d s =>
  .next (returning (.status
    { ifReady := payloadIfReady d
      stereo := payloadStereo d
      signal := payloadSignal d
      freqKHz := int19 (payloadFreqS d)
      muted := s.soft.muted
      raw := r }) s)

/-- A direct request: any word, its response taken; the payload goes to the caller, or the error unchanged (R194, R207). -/
def hostRequest (w : ReqWord) (s : State) : Result :=
  callWord w s fun p s => .next (returning (.response p) s)

/-- The host process restarts: soft state does not survive, nor does what the host has recorded (log 31); the chip is not
reset with it (R222). -/
def hostRestart (s : State) : Result :=
  .next (returning .nothing { s with soft := State.reset.soft, faults := State.reset.faults })

/-- The chip after power-on: its register may hold anything and nothing is known of a read (R221; log 20). -/
def powerOnChip (s : State) : Result :=
  let content := match busAnswer s with
    | .done f => f
    | .failed _ f => f
  .next { tickBus s with chip := { reg := content, standing := .unknown } }

/-- One host action. DESIGN CHOICE (log 30): a bare `BusWrite` is performed whatever its frame is, also one that came from
neither ENC nor MOD, to which R194 gives no meaning; none of the six operations makes one. -/
def perform (a : HostAction) (s : State) : Result :=
  match a with
  | .request w => hostRequest w s
  | .busRead => busRead s fun f s => .next (returning (.frame f) s)
  | .busWrite f kind => busWrite f kind s fun s => .next (returning .done s)
  | .settle ms => .next (settle ms s)
  | .tuneTo freq => hostTuneTo freq s
  | .stepTune dir => hostStep dir s
  | .mute => hostMute s
  | .unmute => hostUnmute s
  | .setMono flag => hostSetMono flag s
  | .readStatus => hostReadStatus s
  | .restart => hostRestart s
  | .chipPowerOn => powerOnChip s
  | .codecReset => .next s

end Sys2Proof.Machine
end

