-- ==== Sys2Proof/Machine/Step.lean ====
section
/-! DEFINITION. One step of the system (00_scope.md R4, 70_reset_and_hazards.md R242; log 1): a request that has been
presented is answered; otherwise the host does the next thing of its agenda; with neither, nothing happens. -/

namespace Sys2Proof.Machine

/-- One step. A word at the port is answered by the codec alone (R20); the host's own requests are actions, which take their
response with them (R207; log 31). "A response is produced for a request and for nothing else" (R204; log 6). -/
def step (s : State) : Host.Outcome State Fault Refusal :=
  match s.req with
  | some w => answer w { s with req := none }
  | none =>
      match s.agenda with
      | a :: rest => perform a { s with agenda := rest }
      | [] => .next s

/-- The state with a table row's word presented at the request port, so that the very next step answers it (log 22, 23). -/
def State.withFetchWord (s : State) (nbits w : Nat) : State :=
  { s with req := some (tableWord nbits w) }

end Sys2Proof.Machine
end

