-- ==== Sys2Proof/Machine/Assembly.lean ====
section
/-! DEFINITION. The assembler syntax (30_encoding.md R75, R76): the text of an instruction, and the instruction of a line
of text; operands in the order R75 shows, frequencies as decimal kHz, frames as ten hexadecimal digits, byte0 first, flags
as 0 or 1, mutators as NOP, SET, CLR (log 26). -/

namespace Sys2Proof.Machine

/-- A hexadecimal digit, capital letters as R75 writes them. -/
def hexDigit (n : Nat) : Char :=
  if n < 10 then Char.ofNat (48 + n) else Char.ofNat (55 + n)

/-- A byte as two hexadecimal digits. -/
def hexByte (b : Byte) : List Char := [hexDigit (b.toNat / 16), hexDigit (b.toNat % 16)]

/-- A frame as ten hexadecimal digits, byte0 first (R75). -/
def hexFrame (f : Frame) : String :=
  String.ofList (hexByte f.byte0 ++ hexByte f.byte1 ++ hexByte f.byte2 ++ hexByte f.byte3 ++ hexByte f.byte4)

/-- A flag operand (R75). -/
def flagText (b : Bool) : String := if b then "1" else "0"

/-- A mutator operand (R75). -/
def mutText : MutOp → String
  | .nop => "NOP"
  | .set => "SET"
  | .clr => "CLR"

/-- The assembler text of an instruction (R75, R76). -/
def asmText : Instr → String
  | .quant f => "QUANT " ++ toString f.toNat
  | .enc f m s d =>
      "ENC " ++ toString f.toNat ++ ", " ++ flagText m ++ ", " ++ flagText s ++ ", " ++ flagText d
  | .dec f => "DEC " ++ hexFrame f
  | .mod f m s => "MOD " ++ hexFrame f ++ ", " ++ mutText m ++ ", " ++ mutText s
  | .modRewrite f => "MOD.REWRITE " ++ hexFrame f
  | .modMute f => "MOD.MUTE " ++ hexFrame f
  | .modUnmute f => "MOD.UNMUTE " ++ hexFrame f
  | .modStereo f => "MOD.STEREO " ++ hexFrame f
  | .modMono f => "MOD.MONO " ++ hexFrame f

/-- The value of a digit in a base up to 16; capital and small letters alike. -/
def digitOf (base : Nat) (c : Char) : Option Nat :=
  let n := c.toNat
  let v := if 48 ≤ n ∧ n ≤ 57 then n - 48
    else if 65 ≤ n ∧ n ≤ 70 then n - 55
    else if 97 ≤ n ∧ n ≤ 102 then n - 87
    else base
  if v < base then some v else none

/-- The number the digits write, after `acc`. -/
def digitsFrom (base acc : Nat) : List Char → Option Nat
  | [] => some acc
  | c :: cs => (digitOf base c).bind fun d => digitsFrom base (acc * base + d) cs

/-- A frequency operand: decimal kHz, 0 to 262 143 (R62, R63, R75). -/
def parseFreq (cs : List Char) : Option FreqKHz :=
  if cs.isEmpty then none
  else (digitsFrom 10 0 cs).bind fun n => if n < 2 ^ 18 then some (BitVec.ofNat 18 n) else none

/-- A frame operand: exactly ten hexadecimal digits (R75). -/
def parseFrame (cs : List Char) : Option Frame :=
  if cs.length = 10 then (digitsFrom 16 0 cs).map fun n => Frame.ofBits (BitVec.ofNat 40 n) else none

/-- A flag operand (R75). -/
def parseFlag (cs : List Char) : Option Bool :=
  if cs = ['0'] then some false else if cs = ['1'] then some true else none

/-- A mutator operand (R75). -/
def parseMut (cs : List Char) : Option MutOp :=
  if cs = "NOP".toList then some .nop
  else if cs = "SET".toList then some .set
  else if cs = "CLR".toList then some .clr
  else none

/-- The words of a line, split at spaces and commas; `word` is the one being read, last letter first. -/
def wordsFrom (word : List Char) : List Char → List (List Char)
  | [] => if word.isEmpty then [] else [word.reverse]
  | c :: cs =>
      if c = ' ' ∨ c = ',' then
        if word.isEmpty then wordsFrom [] cs else word.reverse :: wordsFrom [] cs
      else wordsFrom (c :: word) cs

/-- The instruction of the words of a line (R75, R76). -/
def assembleWords : List (List Char) → Option Instr
  | [op, x] =>
      if op = "QUANT".toList then (parseFreq x).map .quant
      else if op = "DEC".toList then (parseFrame x).map .dec
      else if op = "MOD.REWRITE".toList then (parseFrame x).map .modRewrite
      else if op = "MOD.MUTE".toList then (parseFrame x).map .modMute
      else if op = "MOD.UNMUTE".toList then (parseFrame x).map .modUnmute
      else if op = "MOD.STEREO".toList then (parseFrame x).map .modStereo
      else if op = "MOD.MONO".toList then (parseFrame x).map .modMono
      else none
  | [op, x, a, b] =>
      if op = "MOD".toList then
        (parseFrame x).bind fun f => (parseMut a).bind fun m => (parseMut b).map fun s => .mod f m s
      else none
  | [op, x, a, b, c] =>
      if op = "ENC".toList then
        (parseFreq x).bind fun f => (parseFlag a).bind fun m => (parseFlag b).bind fun s =>
          (parseFlag c).map fun d => .enc f m s d
      else none
  | _ => none

/-- The instruction of one line of assembler text (R75). -/
def assemble (line : String) : Option Instr := assembleWords (wordsFrom [] line.toList)

end Sys2Proof.Machine
end

