-- ==== Sys2Proof/Safety.lean ====
section
/-! DEFINITION. What counts as a safe run, in the terms the statements use: the host's duties (44_host_macros.md R191, R194),
and the invariants of the soft state and of the chip's register (10_state.md R31, 41_encode.md R124, 43_modify.md R164). -/

namespace Sys2Proof.Machine

/-- The invariant of `current_frequency`: "when present, lies in `[87.5, 108.0]` MHz, quantized to 0.1 MHz steps" (R31). -/
def SoftState.onGrid (soft : SoftState) : Bool :=
  match soft.current with
  | none => true
  | some khz => inBand khz && khz % Config.grid == 0

/-- A whole host operation, not a bare bus transaction or wait: a host of whole operations waits out every settle delay and
writes only frames that came from ENC or MOD (R191, R194, R232). -/
def HostAction.whole : HostAction → Bool
  | .request _ => true
  | .busRead => false
  | .busWrite _ _ => false
  | .settle _ => false
  | .tuneTo _ => true
  | .stepTune _ => true
  | .mute => true
  | .unmute => true
  | .setMono _ => true
  | .readStatus => true
  | .restart => true
  | .chipPowerOn => true
  | .codecReset => true

/-- What every frame from ENC or MOD satisfies: `FRAME & 40'h00_00_00_EF_FF == 0` (R124, R164). -/
def writeFrameOk (f : Frame) : Bool := f.toBits &&& 0xEFFF#40 == 0

/-- What a read of the chip is worth between whole operations: nothing, or the PLL bits of a write frame; never a settle
delay left to pass. -/
def Chip.atRest (c : Chip) : Bool :=
  match c.standing with
  | .unknown => true
  | .settling _ => false
  | .settled => writeFrameOk c.reg

/-- A safe state: the host is about to run whole operations only, its soft state is on the grid, the chip is at rest. -/
def State.safe (s : State) : Bool :=
  s.agenda.all HostAction.whole && s.soft.onGrid && s.chip.atRest

end Sys2Proof.Machine

/-! What a completed transaction leaves, as one state: the words the statements about the host are written in. -/

namespace Sys2Proof.Spec
open Sys2Proof.Machine

/-- After a successful write of `F` with its settle delay waited out, one bus answer used, and the soft state and the reply
updated. -/
def wrote (s : State) (F : Frame) (soft : SoftState) (reply : Reply) : State :=
  { s with
    rsp := 0#8 ++ F.toBits
    chip := { reg := F, standing := .settled }
    soft := soft
    reply := reply
    busInputs := s.busInputs.tail
    busCount := s.busCount + 1
    wire := .write Config.chipAddr [F.byte0, F.byte1, F.byte2, F.byte3, F.byte4] :: s.wire }

/-- After a successful read that brought `F`, one bus answer used. -/
def didRead (s : State) (F : Frame) : State :=
  { s with
    busInputs := s.busInputs.tail
    busCount := s.busCount + 1
    wire := .read Config.chipAddr [F.byte0, F.byte1, F.byte2, F.byte3, F.byte4] :: s.wire }

/-- After a successful tune to `q`: the frame R181 names is written and settled, then `current` is set and `q` returned. -/
def tuned (s : State) (q : Nat) : State :=
  wrote s (encodeFrame q false (!s.soft.forcedMono) true) { s.soft with current := some q } (.committed q)

end Sys2Proof.Spec
end

