-- ==== Sys2Proof/Certificates/Slice0/Obligations.lean ====
section
/-! DEFINITION. The statements for the provers, each from a rule of spec/ or from what the model says in its own words.
First a few words the statements are written in, independent of the model's own functions where a rule gives a formula. -/

namespace Sys2Proof.Spec
open Sys2Proof Sys2Proof.Machine

/-- `s` with the request `w` presented. -/
def presented (s : State) (w : ReqWord) : State := { s with req := some w }

/-- `s` after a presented request has been answered with `v`: the port is taken, `RSP` driven, nothing else changed. -/
def answered (s : State) (v : RspWord) : State := { s with req := none, rsp := v }

/-- `s` after the host has taken the response `v` to its own request (R207): the payload of an OK response, or the error
unchanged, goes to the caller, InvalidFrequency is recorded, nothing else is touched. -/
def took (s : State) (v : RspWord) : State :=
  { s with
    rsp := v
    reply := if v.extractLsb' 44 4 = 0#4 then .response (v.extractLsb' 0 44)
      else if v.extractLsb' 44 4 = 1#4 then .codecError .invalidFrequency else .codecError .illegalRequest
    faults := if v.extractLsb' 44 4 = 1#4 then .invalidFrequency :: s.faults else s.faults }

/-- `REQ[47:44]`. -/
def op (w : ReqWord) : BitVec 4 := w.extractLsb' 44 4

/-- R100's formula. -/
def gridKHz (f : Nat) : Nat := 100 * min (max ((f + 50) / 100) 875) 1080

/-- R102's formula. -/
def pllOf (f : Nat) : Nat := (4000 * f + 900000) / 32768

/-- R103's formula. -/
def kHzOf (p : Nat) : Int :=
  (8192 * (p : Int) - 225000) / 1000 + (if (8192 * (p : Int) - 225000) % 1000 > 500 then 1 else 0)

/-- R120's response to a legal request: the frame, byte by byte. -/
def encRsp (f : Nat) (mute stereo de50 : Bool) : RspWord :=
  let p : BitVec 14 := BitVec.ofNat 14 (pllOf f)
  0#8 ++ (BitVec.ofBool mute ++ 0#1 ++ p.extractLsb' 8 6) ++ p.extractLsb' 0 8 ++ (BitVec.ofBool stereo ++ 0#7) ++
    (if de50 then 0x10#8 else 0x00#8) ++ 0x00#8

/-- R140's response: `{4'h0, 19'b0, IF_READY, STEREO, SIGNAL, FREQ_KHZ_S}`. -/
def decRsp (ifReady stereo : Bool) (signal : BitVec 4) (p : BitVec 14) : RspWord :=
  0#4 ++ 0#19 ++ BitVec.ofBool ifReady ++ BitVec.ofBool stereo ++ signal ++ BitVec.ofInt 19 (kHzOf p.toNat)

/-- R160's response: the mute bit, the stereo bit and the bits kept verbatim. -/
def modRsp (mute stereo : Bool) (b0low : BitVec 7) (b1 : Byte) (b2low : BitVec 7) : RspWord :=
  0#8 ++ (BitVec.ofBool mute ++ b0low) ++ b1 ++ (BitVec.ofBool stereo ++ b2low) ++ 0x10#8 ++ 0x00#8

/-- R160's response for a frame operand: `SET` alone mutes (R163); `NOP` keeps the stereo bit of the frame. -/
def modFrameRsp (f : Frame) (muteOp stereoOp : MutOp) : RspWord :=
  modRsp (muteOp == .set) (match stereoOp with | .nop => f.byte2.getLsbD 7 | .set => true | .clr => false)
    (f.byte0.extractLsb' 0 7) f.byte1 (f.byte2.extractLsb' 0 7)

/-- The response word of an instruction. -/
def rspOf (i : Instr) : RspWord := codec (encode i)

/-- The frame in the response of an ENC or a MOD. -/
def frameOf (i : Instr) : Frame := Frame.ofBits ((rspOf i).extractLsb' 0 40)

/-- `FREQ_KHZ_S` of DEC's response to a frame, as an integer. -/
def decodedFreq (f : Frame) : Int := ((rspOf (.dec f)).extractLsb' 0 19).toInt

/-- The conditions of R69, on the bits of the word. -/
abbrev illegalWord (w : ReqWord) : Prop :=
  op w = 0#4 ∨ 5 ≤ (op w).toNat ∨
  (op w = 4#4 ∧ (w.extractLsb' 40 2 = 3#2 ∨ w.extractLsb' 42 2 = 3#2)) ∨
  (op w = 1#4 ∧ w.extractLsb' 18 26 ≠ 0) ∨ (op w = 2#4 ∧ w.extractLsb' 21 23 ≠ 0) ∨
  (op w = 3#4 ∧ w.extractLsb' 40 4 ≠ 0)

/-- The six public operations with a finite frequency (R188). -/
def isOperation : HostAction → Bool
  | .tuneTo (.mhz _) => true
  | .stepTune _ => true
  | .mute => true
  | .unmute => true
  | .setMono _ => true
  | .readStatus => true
  | _ => false

/-- The bus answers a transaction with success. -/
def succeeds : BusAnswer → Bool
  | .done _ => true
  | .failed _ _ => false

end Sys2Proof.Spec

open Sys2Proof Sys2Proof.Machine Sys2Proof.Spec

/-! ## Encoding and decoding -/

/-- A few request words written out from the format tables R62 to R65 and R76 decode to what they stand for. That the word of
MOD.MUTE decodes to that name, where R78 answers MOD with SET and NOP, is the model's convention (log 5). -/
def Obligations.SpecWordsDecode : Prop :=
  decode 0b000100000000000000000000000000110000110101000000#48 = .legal (.quant 200000#18) ∧
  decode 0b001000000000000000000000000110010111100101011000#48 = .legal (.enc 96600#18 false true true) ∧
  decode 0b001100001010111000101011100000001010011100000000#48 = .legal (.dec ⟨0xAE, 0x2B, 0x80, 0xA7, 0x00⟩) ∧
  decode 0b010010011010111000101011101101011010011111000011#48 =
    .legal (.mod ⟨0xAE, 0x2B, 0xB5, 0xA7, 0xC3⟩ .set .clr) ∧
  decode 0b010000011010111000101011101101011010011111000011#48 = .legal (.modMute ⟨0xAE, 0x2B, 0xB5, 0xA7, 0xC3⟩) ∧
  decode 0b000000000000000000000000000000000000000000000000#48 = .illegal .reservedOpcode

/-- R69, R70: a word is illegal exactly when one of the three conditions holds of its bits. -/
def Obligations.IllegalWordsAreExactlyThoseOfTheRule : Prop :=
  ∀ w : ReqWord, (∃ why, decode w = .illegal why) ↔ illegalWord w

/-- R78's match and mask columns, with MOD's extra condition, say which words are which of the four instructions. -/
def Obligations.MatchAndMaskSelectTheInstruction : Prop :=
  ∀ w : ReqWord,
    ((∃ f, decodeCore w = .legal (.quant f)) ↔ w &&& 0xFFFFFFFC0000#48 = 0x100000000000#48) ∧
    ((∃ f m s d, decodeCore w = .legal (.enc f m s d)) ↔ w &&& 0xFFFFFFE00000#48 = 0x200000000000#48) ∧
    ((∃ f, decodeCore w = .legal (.dec f)) ↔ w &&& 0xFF0000000000#48 = 0x300000000000#48) ∧
    ((∃ f m s, decodeCore w = .legal (.mod f m s)) ↔
      w &&& 0xF00000000000#48 = 0x400000000000#48 ∧ w.extractLsb' 40 2 ≠ 3#2 ∧ w.extractLsb' 42 2 ≠ 3#2)

/-- Decode and encode agree: decoding the encoding of a well-formed instruction gives it back, with every operand. That a
MOD R76 names is well-formed under that name only is the model's convention (log 5). -/
def Obligations.DecodeOfEncodeIsIdentity : Prop :=
  ∀ i : Instr, i.WellFormed → decode (encode i) = .legal i

/-- For every instruction, a MOD written out where R76 has a name for it included, the four-instruction decoder gives its
expansion and the machine's decoder that expansion's name. The naming is the model's convention (log 5). -/
def Obligations.DecodeOfEncodeIsExpansion : Prop :=
  ∀ i : Instr, decodeCore (encode i) = .legal i.expand ∧ decode (encode i) = .legal i.expand.named

/-- The other direction: a word that decodes is the encoding of what it decodes to, which is well-formed. The naming is the
model's convention (log 5). -/
def Obligations.EncodeOfDecodeIsIdentity : Prop :=
  ∀ (w : ReqWord) (i : Instr), decode w = .legal i → encode i = w ∧ i.WellFormed

/-- R76: a pseudo-instruction is its expansion, as a word and as a meaning. -/
def Obligations.PseudoInstructionsAreTheirExpansions : Prop :=
  ∀ (f : Frame) (s : State),
    (encode (.modRewrite f) = encode (.mod f .nop .nop) ∧ exec (.modRewrite f) s = exec (.mod f .nop .nop) s ∧
      (encode (.modRewrite f)).extractLsb' 40 8 = 0x40#8) ∧
    (encode (.modMute f) = encode (.mod f .set .nop) ∧ exec (.modMute f) s = exec (.mod f .set .nop) s ∧
      (encode (.modMute f)).extractLsb' 40 8 = 0x41#8) ∧
    (encode (.modUnmute f) = encode (.mod f .clr .nop) ∧ exec (.modUnmute f) s = exec (.mod f .clr .nop) s ∧
      (encode (.modUnmute f)).extractLsb' 40 8 = 0x42#8) ∧
    (encode (.modMono f) = encode (.mod f .nop .clr) ∧ exec (.modMono f) s = exec (.mod f .nop .clr) s ∧
      (encode (.modMono f)).extractLsb' 40 8 = 0x48#8) ∧
    (encode (.modStereo f) = encode (.mod f .nop .set) ∧ exec (.modStereo f) s = exec (.mod f .nop .set) s ∧
      (encode (.modStereo f)).extractLsb' 40 8 = 0x44#8)

/-! ## A step -/

/-- A step runs the decoded instruction: nothing is added around exec but that the request has been taken. -/
def Obligations.StepRunsTheDecodedInstruction : Prop :=
  ∀ (s : State) (w : ReqWord) (i : Instr), decode w = .legal i →
    step (presented s w) = exec i { s with req := none }

/-- With no request presented a step is the host's next action, and with no action it changes nothing (the latter is the
model's reading of R204, log 6; the order of agents is log 1). -/
def Obligations.StepWithoutRequestIsTheHosts : Prop :=
  ∀ (s : State) (a : HostAction) (rest : List HostAction),
    step { s with req := none, agenda := a :: rest } = perform a { s with req := none, agenda := rest } ∧
    step { s with req := none, agenda := [] } = .next { s with req := none, agenda := [] }

/-- R20: the response is a function of the request that is presented and of nothing else, and nothing but the ports is
touched. -/
def Obligations.ResponseIsAFunctionOfTheRequest : Prop :=
  ∀ (w : ReqWord) (s : State), step (presented s w) = .next (answered s (codec w))

/-- The frame of every instruction: RSP is the only thing the codec ever writes (R12, R20); "the codec itself keeps nothing" of
an error (R207). -/
def Obligations.InstructionsWriteOnlyTheResponse : Prop :=
  ∀ (i : Instr) (s t : State), exec i s = .next t →
    t.req = s.req ∧ t.chip = s.chip ∧ t.soft = s.soft ∧ t.reply = s.reply ∧ t.faults = s.faults ∧
    t.agenda = s.agenda ∧ t.busInputs = s.busInputs ∧ t.busCount = s.busCount ∧ t.wire = s.wire

/-- R61, R68: a response's ST is 0, 1 or 2, never 3 to F, and the two error responses are exactly the two words. -/
def Obligations.StatusAndErrorWords : Prop :=
  ∀ w : ReqWord, (stField (codec w)).toNat ≤ 2 ∧
    (stField (codec w) = 1#4 → codec w = 0x100000000000#48) ∧
    (stField (codec w) = 2#4 → codec w = 0x200000000000#48)

/-- R200: InvalidFrequency answers an ENC with a frequency below 87 500 or above 108 000 kHz, and nothing else does. -/
def Obligations.InvalidFrequencyIsEncOutOfBand : Prop :=
  ∀ w : ReqWord, codec w = 0x100000000000#48 ↔
    ∃ f m s d, decode w = .legal (.enc f m s d) ∧ (f.toNat < 87500 ∨ 108000 < f.toNat)

/-- R201: every illegal word is answered with IllegalRequest, and no other word is. -/
def Obligations.IllegalRequestAnswersIllegalWords : Prop :=
  ∀ (w : ReqWord) (s : State), illegalWord w ↔ step (presented s w) = .next (answered s 0x200000000000#48)

/-! ## QUANT -/

/-- R101 for the instruction: QUANT answers R100's value, for every operand and in every state. -/
def Obligations.QuantAnswersTheGridFrequency : Prop :=
  ∀ (f : FreqKHz) (s : State),
    exec (.quant f) s = .next { s with rsp := BitVec.ofNat 48 (gridKHz f.toNat) }

/-- R101 for the request word: reserved bits first, then the clamp; never InvalidFrequency. -/
def Obligations.QuantWords : Prop :=
  ∀ (w : ReqWord) (s : State), op w = 1#4 →
    step (presented s w) = .next (answered s (if w.extractLsb' 18 26 ≠ 0 then 0x200000000000#48
      else BitVec.ofNat 48 (gridKHz (w.extractLsb' 0 18).toNat)))

/-- R100, R107: the grid quantiser is R100's formula, its result is in the band and a multiple of 100, it is monotone and
idempotent, and clamping before rounding gives the same. The laws beside the formula are consequences the spec marks as
derived (R100's last sentence, R107). -/
def Obligations.GridQuantiserLaws : Prop :=
  ∀ f g : Nat, gridQuant f = gridKHz f ∧ 87500 ≤ gridQuant f ∧ gridQuant f ≤ 108000 ∧ gridQuant f % 100 = 0 ∧
    (f ≤ g → gridQuant f ≤ gridQuant g) ∧ gridQuant (gridQuant f) = gridQuant f ∧
    gridQuant f = (min (max f 87500) 108000 + 50) / 100 * 100

/-! ## The PLL quantiser -/

/-- R102, R103, R104: the two functions are the rules' formulas, and the decoded frequency is strictly the nearest integer
to the exact one: no tie exists. That no tie exists is a consequence the spec marks as derived (R104). -/
def Obligations.PllQuantisersAreTheFormulas : Prop :=
  (∀ f : Nat, pllOfKHz f = pllOf f) ∧
  (∀ p : Nat, khzOfPll p = kHzOf p ∧ -500 < 1000 * khzOfPll p - (8192 * (p : Int) - 225000) ∧
    1000 * khzOfPll p - (8192 * (p : Int) - 225000) < 500)

/-- R105: the ranges of the quantisers' results, so that 14, 17 and 19 bits hold them; and R103: strictly increasing. The
ranges are consequences the spec marks as derived (R105). -/
def Obligations.ResultsFitTheirFields : Prop :=
  (∀ f : Nat, 87500 ≤ f → f ≤ 108000 → 10708 ≤ pllOfKHz f ∧ pllOfKHz f ≤ 13211) ∧
  (∀ p : Nat, p ≤ 16383 → -225 ≤ khzOfPll p ∧ khzOfPll p ≤ 133985 ∧ int19 (tc19 (khzOfPll p)) = khzOfPll p) ∧
  (∀ p q : Nat, p < q → khzOfPll p < khzOfPll q)

/-- R106 (a) and (b): the decoded frequency is at most 8 kHz below the commanded one and never above it, and a grid
frequency comes back exactly. Consequences the spec marks as derived (R106). -/
def Obligations.PllRoundTripBounds : Prop :=
  (∀ f : Nat, 87500 ≤ f → f ≤ 108000 →
    0 ≤ 1000 * (f : Int) - (8192 * (pllOfKHz f : Int) - 225000) ∧
    1000 * (f : Int) - (8192 * (pllOfKHz f : Int) - 225000) < 8192 ∧
    0 ≤ (f : Int) - khzOfPll (pllOfKHz f) ∧ (f : Int) - khzOfPll (pllOfKHz f) ≤ 8) ∧
  (∀ f : Nat, let g := gridQuant f; gridQuant (khzOfPll (pllOfKHz g)).toNat = g)

/-! ## ENC -/

/-- R120 to R124 for the instruction: an in-band ENC answers the frame, for every flag. -/
def Obligations.EncInBandAnswersTheFrame : Prop :=
  ∀ (f : FreqKHz) (m st d : Bool) (s : State), 87500 ≤ f.toNat → f.toNat ≤ 108000 →
    exec (.enc f m st d) s = .next { s with rsp := encRsp f.toNat m st d }

/-- R121, R206: an out-of-band ENC answers InvalidFrequency, produces no frame and changes nothing else. -/
def Obligations.EncOutOfBandRaises : Prop :=
  ∀ (f : FreqKHz) (m st d : Bool) (s : State), f.toNat < 87500 ∨ 108000 < f.toNat →
    exec (.enc f m st d) s = .next { s with rsp := 0x100000000000#48 }

/-- R120 with R205 for the request word: reserved bits first, then the band, then the frame. -/
def Obligations.EncWords : Prop :=
  ∀ (w : ReqWord) (s : State), op w = 2#4 →
    step (presented s w) = .next (answered s (
      if w.extractLsb' 21 23 ≠ 0 then 0x200000000000#48
      else if (w.extractLsb' 0 18).toNat < 87500 ∨ 108000 < (w.extractLsb' 0 18).toNat then 0x100000000000#48
      else encRsp (w.extractLsb' 0 18).toNat (w.getLsbD 18) (w.getLsbD 19) (w.getLsbD 20)))

/-- R124, R125: the bits nothing sets are 0 in every frame of ENC, and its PLL word lies in 10 708 to 13 211. The range is a
consequence the spec marks as derived (R125). -/
def Obligations.EncFramesAreWriteFrames : Prop :=
  ∀ (f : FreqKHz) (m st d : Bool), 87500 ≤ f.toNat → f.toNat ≤ 108000 →
    (frameOf (.enc f m st d)).toBits &&& 0x40007FEFFF#40 = 0 ∧
    10708 ≤ (pllField (frameOf (.enc f m st d))).toNat ∧ (pllField (frameOf (.enc f m st d))).toNat ≤ 13211

/-- R126: DEC of the frame of a successful ENC answers the mute bit, the stereo bit, the de-emphasis nibble, and a frequency
at most 8 kHz below the one encoded. A consequence the spec marks as derived (R126). -/
def Obligations.DecOfEncRoundTrip : Prop :=
  ∀ (f : FreqKHz) (m st d : Bool), 87500 ≤ f.toNat → f.toNat ≤ 108000 →
    let r := rspOf (.dec (frameOf (.enc f m st d)))
    stField r = 0 ∧ r.getLsbD 24 = m ∧ r.getLsbD 23 = st ∧ r.extractLsb' 19 4 = (if d then 1#4 else 0#4) ∧
    0 ≤ (f.toNat : Int) - (r.extractLsb' 0 19).toInt ∧ (f.toNat : Int) - (r.extractLsb' 0 19).toInt ≤ 8

/-! ## DEC -/

/-- R140, R142 for the instruction: every frame decodes. -/
def Obligations.DecAnswersTheStatus : Prop :=
  ∀ (f : Frame) (s : State),
    exec (.dec f) s = .next { s with
      rsp := decRsp (f.byte0.getLsbD 7) (f.byte2.getLsbD 7) (f.byte3.extractLsb' 4 4) (f.byte0.extractLsb' 0 6 ++ f.byte1) }

/-- R140 for the request word. -/
def Obligations.DecWords : Prop :=
  ∀ (w : ReqWord) (s : State), op w = 3#4 →
    step (presented s w) = .next (answered s (if w.extractLsb' 40 4 ≠ 0 then 0x200000000000#48
      else decRsp (w.getLsbD 39) (w.getLsbD 23) (w.extractLsb' 12 4) (w.extractLsb' 24 14)))

/-- R141: DEC reads exactly these 20 bits of a frame: two frames have the same response if and only if they agree on
them. -/
def Obligations.DecReadsExactlyTheNamedBits : Prop :=
  ∀ (f g : Frame), rspOf (.dec f) = rspOf (.dec g) ↔ f.toBits &&& 0xBFFF80F000#40 = g.toBits &&& 0xBFFF80F000#40

/-- R143: the decoded frequency is R103's, neither clamped nor brought to the grid: it is negative exactly for PLL words up to
27, -225 kHz at the least and 133 985 kHz at the most, both of which occur. -/
def Obligations.DecodedFrequencyMayBeNegative : Prop :=
  (∀ f : Frame, decodedFreq f = kHzOf (pllField f).toNat ∧ (decodedFreq f < 0 ↔ (pllField f).toNat ≤ 27) ∧ -225 ≤ decodedFreq f ∧ decodedFreq f ≤ 133985) ∧
  (∀ f : Frame, pllField f = 0 → decodedFreq f = -225 ∧ (rspOf (.dec f)).extractLsb' 0 19 = 0x7FF1F#19) ∧
  (∀ f : Frame, (pllField f).toNat = 16383 → decodedFreq f = 133985 ∧ (rspOf (.dec f)).extractLsb' 0 19 = 0x20B61#19)

/-- R30, R72: insertion then extraction, and extraction then insertion, of a PLL word is the identity; and the PLL word is
the slice F[37:24]. -/
def Obligations.PllWordIsRoundTrippedLosslessly : Prop :=
  ∀ (f : Frame) (p : PllWord), pllField (withPll f p) = p ∧ withPll f (pllField f) = f ∧
    pllField f = f.toBits.extractLsb' 24 14

/-! ## MOD and its pseudo-instructions -/

/-- R160 for the instruction, at every mutator. -/
def Obligations.ModAnswersTheWriteFrame : Prop :=
  ∀ (f : Frame) (m st : MutOp) (s : State), exec (.mod f m st) s = .next { s with rsp := modFrameRsp f m st }

/-- R76 with R160: each pseudo-instruction completes, with the frame its mutator gives. -/
def Obligations.PseudoInstructionsAnswerTheWriteFrame : Prop :=
  ∀ (f : Frame) (s : State),
    exec (.modRewrite f) s = .next { s with
      rsp := modRsp false (f.byte2.getLsbD 7) (f.byte0.extractLsb' 0 7) f.byte1 (f.byte2.extractLsb' 0 7) } ∧
    exec (.modMute f) s = .next { s with
      rsp := modRsp true (f.byte2.getLsbD 7) (f.byte0.extractLsb' 0 7) f.byte1 (f.byte2.extractLsb' 0 7) } ∧
    exec (.modUnmute f) s = .next { s with
      rsp := modRsp false (f.byte2.getLsbD 7) (f.byte0.extractLsb' 0 7) f.byte1 (f.byte2.extractLsb' 0 7) } ∧
    exec (.modStereo f) s = .next { s with
      rsp := modRsp false true (f.byte0.extractLsb' 0 7) f.byte1 (f.byte2.extractLsb' 0 7) } ∧
    exec (.modMono f) s = .next { s with
      rsp := modRsp false false (f.byte0.extractLsb' 0 7) f.byte1 (f.byte2.extractLsb' 0 7) }

/-- R160 for the request word. -/
def Obligations.ModWords : Prop :=
  ∀ (w : ReqWord) (s : State), op w = 4#4 →
    step (presented s w) = .next (answered s (
      if w.extractLsb' 40 2 = 3#2 ∨ w.extractLsb' 42 2 = 3#2 then 0x200000000000#48
      else modRsp (w.extractLsb' 40 2 == 1#2)
        (if w.extractLsb' 42 2 = 1#2 then true else if w.extractLsb' 42 2 = 2#2 then false else w.getLsbD 23)
        (w.extractLsb' 32 7) (w.extractLsb' 24 8) (w.extractLsb' 16 7)))

/-- R164: a frame of MOD has byte3 = 0x10 and byte4 zero, and keeps byte0[6:0], byte1 and byte2[6:0], and all of byte2 when
no mutation touches it. -/
def Obligations.ModFramesKeepTheUnnamedBits : Prop :=
  ∀ (f : Frame) (m st : MutOp),
    (frameOf (.mod f m st)).toBits &&& 0x000000EFFF#40 = 0 ∧ (frameOf (.mod f m st)).byte3 = 0x10 ∧
    (frameOf (.mod f m st)).toBits &&& 0x7FFF7F0000#40 = f.toBits &&& 0x7FFF7F0000#40 ∧
    (st = .nop → (frameOf (.mod f m st)).byte2 = f.byte2)

/-- R166: MOD preserves the tuned frequency, in or out of the band. A consequence the spec marks as derived (R166). -/
def Obligations.ModPreservesTheFrequency : Prop :=
  ∀ (f : Frame) (m st : MutOp), pllField (frameOf (.mod f m st)) = pllField f ∧
    decodedFreq (frameOf (.mod f m st)) = decodedFreq f

/-- R163, R167: with the mute bit NOP is CLR; a second MOD decides the mute bit alone, and the stereo bit unless it leaves
it; the same MOD twice is the MOD once. Consequences the spec marks as derived (R163, R167). -/
def Obligations.ModAbsorbsEarlierMods : Prop :=
  ∀ (f : Frame) (m m' st st' : MutOp),
    rspOf (.mod f .nop st) = rspOf (.mod f .clr st) ∧
    rspOf (.mod (frameOf (.mod f m st)) m' st') = rspOf (.mod f m' (if st' = .nop then st else st')) ∧
    rspOf (.mod (frameOf (.mod f m st)) m st) = rspOf (.mod f m st)

/-! ## Reset -/

/-- R34, R220 to R223: what reset leaves: soft state as the document says, a free first read, no request presented
(RSP and the chip's register are not named: they are free constants, log 2, 3). And at any later time: the codec's reset
changes nothing, a restart resets the soft state and leaves the chip, a chip power-on leaves the soft state and makes every
bit of the next read free. That the three are actions of the agenda that may come at any time, and keep RSP, is the model's
choice (log 20). -/
def Obligations.ResetsLeaveTheDocumentedState : Prop :=
  (State.reset.soft = ⟨none, false, false⟩ ∧ State.reset.req = none ∧ ∀ raw, readFrame State.reset.chip raw = raw) ∧
  ∀ s : State,
    perform .codecReset s = .next s ∧
    (∃ t, perform .restart s = .next t ∧ t.soft = ⟨none, false, false⟩ ∧ t.chip = s.chip ∧ t.rsp = s.rsp) ∧
    (∃ t, perform .chipPowerOn s = .next t ∧ t.soft = s.soft ∧ t.rsp = s.rsp ∧ ∀ raw, readFrame t.chip raw = raw)

/-! ## The bus and the chip -/

/-- R51: a read after a settled write returns the PLL bits last written; every other bit, and with nothing settled every bit,
is whatever the chip and the bus offer; a read changes neither the chip nor the soft state. That the promise is kept also for a
frame in the register that came from neither ENC nor MOD, to which R194 gives no meaning, is the model's choice (log 30). -/
def Obligations.ReadReturnsTheSettledPll : Prop :=
  ∀ (s : State) (raw : Frame), busAnswer s = .done raw →
    ∃ f, perform .busRead s = .next { didRead s f with reply := .frame f } ∧
      (s.chip.standing = .settled → pllField f = pllField s.chip.reg ∧
        f.toBits &&& 0xC000FFFFFF#40 = raw.toBits &&& 0xC000FFFFFF#40) ∧
      (s.chip.standing ≠ .settled → f = raw)

/-- R45, R49, R52, R232, R233: a successful write puts the frame into the chip's register; after waits that together are
shorter than the settle delay of its kind a read is still free in every bit, and once they reach it the chip is settled on the
frame; a failed write leaves any register and promises nothing. That the delays are exactly 120 and 50 ms and that waits add up
is the model's choice (log 10), that a failed write leaves no entry in the record of transfers too (log 28), and that the
write is performed whatever the frame is and however early it comes (log 12, 30). -/
def Obligations.WriteThenSettle : Prop :=
  settleMs .frequency = 120 ∧ settleMs .modify = 50 ∧
  ∀ (s : State) (f : Frame) (k : WriteKind),
    (∀ raw, busAnswer s = .done raw → ∃ t, perform (.busWrite f k) s = .next t ∧ t.chip.reg = f ∧ t.soft = s.soft ∧
      t.wire = .write Config.chipAddr (busBytes f) :: s.wire ∧ (∀ r, readFrame t.chip r = r) ∧
      ∀ ms, ∃ u, perform (.settle ms) t = .next u ∧
        (ms < settleMs k → ∀ r, readFrame u.chip r = r) ∧
        (settleMs k ≤ ms → u.chip = { reg := f, standing := .settled }) ∧
        ∀ more, ∃ v, perform (.settle more) u = .next v ∧
          (ms + more < settleMs k → ∀ r, readFrame v.chip r = r) ∧
          (settleMs k ≤ ms + more → v.chip = { reg := f, standing := .settled })) ∧
    (∀ c left, busAnswer s = .failed c left → ∃ t, perform (.busWrite f k) s = .next t ∧ t.reply = .busError c ∧
      t.chip = { reg := left, standing := .unknown } ∧ t.soft = s.soft ∧ t.wire = s.wire)

/-! ## The host's operations -/

/-- R181: TUNE_TO clamps, encodes with mute=false, stereo=!forced_mono and 50 µs, writes, settles, sets `current`, returns it;
and touches nothing else; or, the write failing, it stops with the error (R180 b), any frame in the chip's register (R52) and
the soft state unchanged. That the failed write leaves no entry in the record of transfers is the model's choice (log 28). -/
def Obligations.TuneToCommitsTheClampedFrequency : Prop :=
  ∀ (x : Rat) (s : State),
    (∀ raw, busAnswer s = .done raw →
      perform (.tuneTo (.mhz x)) s = .next (tuned s (gridKHz (khzOfMHz x).toNat))) ∧
    (∀ c left, busAnswer s = .failed c left → ∃ t, perform (.tuneTo (.mhz x)) s = .next t ∧
      t.reply = .busError c ∧ t.soft = s.soft ∧ t.chip = { reg := left, standing := .unknown } ∧ t.wire = s.wire)

/-- R182: STEP from a stored frequency moves 100 kHz and saturates at the band ends. The premise on the stored value is the
invariant R31, which SafeStatesStaySafe says every step keeps. -/
def Obligations.StepMovesAndSaturates : Prop :=
  ∀ (dir : Direction) (c : Nat) (raw : Frame) (s : State), s.soft.current = some c → s.soft.onGrid = true →
    busAnswer s = .done raw →
    perform (.stepTune dir) s = .next (tuned s (match dir with
      | .up => min (c + 100) 108000
      | .down => max (c - 100) 87500))

/-- R182: STEP with no frequency seeds itself from a status read; a negative seed counts as 0. -/
def Obligations.StepSeedsFromAStatusRead : Prop :=
  ∀ (dir : Direction) (raw raw' : Frame) (rest : List BusAnswer) (s : State), s.soft.current = none →
    s.busInputs = .done raw :: .done raw' :: rest →
    let r := readFrame s.chip raw
    let cur := max (kHzOf (pllField r).toNat) 0
    perform (.stepTune dir) s = .next (tuned (didRead s r) (gridKHz (match dir with
      | .up => (cur + 100).toNat
      | .down => (cur - 100).toNat)))

/-- R183, R184, R185: MUTE, UNMUTE and SET_MONO read, modify, write back and settle, and only then set their flag. -/
def Obligations.ModifyWritesSetTheirFlag : Prop :=
  ∀ (flag : Bool) (raw raw' : Frame) (rest : List BusAnswer) (s : State),
    s.busInputs = .done raw :: .done raw' :: rest →
    let r := readFrame s.chip raw
    perform .mute s =
      .next (wrote (didRead s r) (modifyFrame r .set .nop) { s.soft with muted := true } .done) ∧
    perform .unmute s =
      .next (wrote (didRead s r) (modifyFrame r .clr .nop) { s.soft with muted := false } .done) ∧
    perform (.setMono flag) s =
      .next (wrote (didRead s r) (modifyFrame r .nop (if flag then .clr else .set)) { s.soft with forcedMono := flag } .done)

/-- R186: READ_STATUS reports the decoded read frame with the soft mute flag and the raw bytes; it changes no soft state; or,
the read failing, it reports the error (R180 b). That the failed read leaves no entry in the record of transfers is the
model's choice (log 28). -/
def Obligations.ReadStatusMergesTheSoftMute : Prop :=
  ∀ s : State,
    (∀ raw, busAnswer s = .done raw →
      let r := readFrame s.chip raw
      perform .readStatus s = .next { didRead s r with
        rsp := decRsp (r.byte0.getLsbD 7) (r.byte2.getLsbD 7) (r.byte3.extractLsb' 4 4) (pllField r)
        reply := .status ⟨r.byte0.getLsbD 7, r.byte2.getLsbD 7, r.byte3.extractLsb' 4 4, kHzOf (pllField r).toNat,
          s.soft.muted, r⟩ }) ∧
    (∀ c left, busAnswer s = .failed c left → ∃ t, perform .readStatus s = .next t ∧
      t.reply = .busError c ∧ t.soft = s.soft ∧ t.wire = s.wire)

/-- R180 (b): an operation whose first bus transaction fails stops there, reports the error unchanged and leaves the soft
state. The record holds completed transfers only (log 28). -/
def Obligations.BusErrorStopsTheOperation : Prop :=
  ∀ (a : HostAction) (c : BusError) (left : Frame) (s : State), isOperation a = true → busAnswer s = .failed c left →
    ∃ t, perform a s = .next t ∧ t.reply = .busError c ∧ t.soft = s.soft ∧ t.wire = s.wire

/-- R32, R180 (b), C5: whenever an action ends with BusError, in its first transaction or its second, no soft-state field has
changed. -/
def Obligations.NoSoftUpdateOnBusError : Prop :=
  ∀ (a : HostAction) (c : BusError) (s t : State), perform a s = .next t → t.reply = .busError c → t.soft = s.soft

/-- R187, R191: which actions can change which soft-state field (a restart, R222, resets them all). -/
def Obligations.SoftStateTransitions : Prop :=
  ∀ (a : HostAction) (s t : State), perform a s = .next t → a ≠ .restart →
    (t.soft.current ≠ s.soft.current → (∃ f, a = .tuneTo f) ∨ ∃ d, a = .stepTune d) ∧
    (t.soft.muted ≠ s.soft.muted → a = .mute ∨ a = .unmute) ∧
    (t.soft.forcedMono ≠ s.soft.forcedMono → ∃ flag, a = .setMono flag)

/-- R190, R207: no operation of the host ever sees a codec error, or records one, whatever the state and the bus. A direct
request is where the host does: any word is answered, an OK payload goes to the caller, an error goes to the caller unchanged
and without its payload, InvalidFrequency is recorded on the host side, IllegalRequest is not, and the soft state, the chip and
the bus are untouched. That IllegalRequest cannot arise in an operation is a consequence the spec marks as derived (R190); the
form of the record, and that a direct request is one step, are the model's choice (log 31). -/
def Obligations.OperationsNeverSeeACodecError : Prop :=
  (∀ (a : HostAction) (e : Status) (s t : State), isOperation a = true → perform a s = .next t →
    t.reply ≠ .codecError e ∧ t.faults = s.faults) ∧
  ∀ (w : ReqWord) (s : State), perform (.request w) s = .next (took s (codec w))

/-- Every step goes on, except `tune_to` of a frequency that is not a finite number, which is refused (U11). The refusal is
the model's (log 14). -/
def Obligations.EveryStepGoesOnButForNonFinite : Prop :=
  ∀ s : State, (∃ t, step s = .next t) ∨
    (s.req = none ∧ s.agenda.head? = some (.tuneTo .notFinite) ∧ step s = .refused .nonFiniteFrequency)

/-- R191, R180 (d): an operation writes no frame to the bus but one that ENC makes, unmuted and with 50 µs, or that MOD makes,
and takes nothing off the record of transfers. The record holds completed transfers only (log 28). -/
def Obligations.OperationsWriteOnlyCodecFrames : Prop :=
  ∀ (a : HostAction) (s t : State), a.whole = true → perform a s = .next t →
    ∃ new, t.wire = new ++ s.wire ∧ ∀ x ∈ new, (∃ bytes, x = .read Config.chipAddr bytes) ∨
      (∃ f st, inBand f = true ∧ x = .write Config.chipAddr (busBytes (encodeFrame f false st true))) ∨
      (∃ f m st, x = .write Config.chipAddr (busBytes (modifyFrame f m st)))

/-- R236: tuning writes MUTE = 0 and does not touch the soft flag, so a muted flag may outlive the mute. The spec marks the
hazard as derived. -/
def Obligations.TuningUnmutesTheChip : Prop :=
  ∀ (a : HostAction) (q : Nat) (s t : State), ((∃ f, a = .tuneTo f) ∨ ∃ d, a = .stepTune d) →
    perform a s = .next t → t.reply = .committed q →
    byte0Bit7 t.chip.reg = false ∧ byte2Bit7 t.chip.reg = !s.soft.forcedMono ∧ t.soft.muted = s.soft.muted

/-- R237, R239: SET_MONO writes MUTE = 0 while the soft flag stays, sets STEREO_EN by its argument, and forces 50 µs. The
spec marks the hazard as derived. -/
def Obligations.SetMonoUnmutesTheChip : Prop :=
  ∀ (flag : Bool) (s t : State), perform (.setMono flag) s = .next t → t.reply = .done →
    byte0Bit7 t.chip.reg = false ∧ byte2Bit7 t.chip.reg = !flag ∧ t.chip.reg.byte3 = 0x10 ∧
    t.soft.muted = s.soft.muted ∧ t.soft.current = s.soft.current

/-- R238, R239: MUTE and UNMUTE turn the stereo-detected bit of the frame they read into the stereo-enable bit, and write its
undefined bits back. The spec marks the hazard as derived. -/
def Obligations.MuteCopiesStereoDetected : Prop :=
  ∀ (m : Bool) (s t : State), perform (if m then .mute else .unmute) s = .next t → t.reply = .done →
    ∃ r, t.wire = .write Config.chipAddr (busBytes t.chip.reg) :: .read Config.chipAddr (busBytes r) :: s.wire ∧
      byte0Bit7 t.chip.reg = m ∧ t.chip.reg.byte2 = r.byte2 ∧ pllField t.chip.reg = pllField r ∧
      t.chip.reg.byte0.getLsbD 6 = r.byte0.getLsbD 6 ∧ t.chip.reg.byte3 = 0x10 ∧ t.chip.reg.byte4 = 0

/-- R192: after TUNE_TO, MUTE, UNMUTE with a bus that does not fail, READ_STATUS reports a frequency within 50 kHz of the
committed one and `muted = false`, whatever else the chip returns on its reads. -/
def Obligations.MuteUnmutePreserveFrequency : Prop :=
  ∀ (x : Rat) (a b c d e f : Frame) (rest : List BusAnswer) (s : State), s.req = none →
    s.agenda = [.tuneTo (.mhz x), .mute, .unmute, .readStatus] →
    s.busInputs = .done a :: .done b :: .done c :: .done d :: .done e :: .done f :: rest →
    ∃ t report, core.run 4 s = .next t ∧ t.reply = .status report ∧ report.muted = false ∧
      t.soft.current = some (gridKHz (khzOfMHz x).toNat) ∧
      0 ≤ (gridKHz (khzOfMHz x).toNat : Int) - report.freqKHz ∧ (gridKHz (khzOfMHz x).toNat : Int) - report.freqKHz ≤ 50

/-- R192: SET_MONO(true) after TUNE_TO does not move the frequency READ_STATUS reports, and the frame written has
STEREO_EN = 0. -/
def Obligations.MonoTogglingKeepsFrequency : Prop :=
  ∀ (x : Rat) (a b c d : Frame) (rest : List BusAnswer) (s : State), s.req = none →
    s.agenda = [.tuneTo (.mhz x), .setMono true, .readStatus] →
    s.busInputs = .done a :: .done b :: .done c :: .done d :: rest →
    ∃ t report, core.run 3 s = .next t ∧ t.reply = .status report ∧ byte2Bit7 t.chip.reg = false ∧
      t.soft.forcedMono = true ∧
      report.freqKHz = kHzOf (pllOf (gridKHz (khzOfMHz x).toNat))

/-- R189: N tune_to calls, in any order, on a bus that does not fail are exactly N completed transactions, each one
well-formed frame. That callers are served one whole macro at a time is the model's reading of R48 (log 16). -/
def Obligations.TuneToCallsAreWholeTransactions : Prop :=
  ∀ (xs : List Rat) (s : State), s.req = none → s.agenda = xs.map (fun x => .tuneTo (.mhz x)) →
    s.busInputs.all succeeds = true → xs.length ≤ s.busInputs.length →
    ∃ t, core.run xs.length s = .next t ∧ t.agenda = [] ∧
      t.wire = (xs.map fun x => Transfer.write Config.chipAddr (busBytes
        (encodeFrame (gridKHz (khzOfMHz x).toNat) false (!s.soft.forcedMono) true))).reverse ++ s.wire

/-- R188, R240: the host saturates what a request cannot express, and its flooring to kHz and the grid quantiser are
together one half-up rounding of the caller's real number of MHz, clamped to the band. -/
def Obligations.HostConversionIsOneRounding : Prop :=
  (∀ i : Int, (i ≤ 0 → (saturateKHz i).toNat = 0) ∧ (262143 ≤ i → (saturateKHz i).toNat = 262143) ∧
    (0 ≤ i → i ≤ 262143 → ((saturateKHz i).toNat : Int) = i)) ∧
  (∀ x : Rat, (gridQuant (khzOfMHz x).toNat : Int) = 100 * min (max ((1000 * x + 50) / 100).floor 875) 1080)

/-! ## Invariants -/

/-- The reset state is safe. That its agenda is empty is the model's choice (log 8). -/
def Obligations.ResetIsSafe : Prop := State.reset.safe = true

/-- Every step keeps a safe state safe: soft state on the grid (R31), only whole operations ahead (R194), and the chip at
rest, holding, when a read of it is worth anything, a write frame (R124, R164), with no settle delay left (R232). -/
def Obligations.SafeStatesStaySafe : Prop :=
  ∀ s t : State, s.safe = true → step s = .next t → t.safe = true

/-- R31 alone, for every host, whole operations or not. -/
def Obligations.CurrentFrequencyStaysOnTheGrid : Prop :=
  ∀ s t : State, s.soft.onGrid = true → step s = .next t → t.soft.onGrid = true
end

