-- ==== Sys2Proof/Laws/Bits.lean ====
section
/-! SUPPORT. The laws of frames, mutators and response words: taking apart what was put together gives it back. -/

namespace Sys2Proof

@[simp] theorem Frame.toBits_ofBits (v : FrameBits) : (Frame.ofBits v).toBits = v := by
  apply BitVec.eq_of_getLsbD_eq
  intro i hi
  simp [Frame.toBits, Frame.ofBits]
  grind

@[simp] theorem Frame.ofBits_toBits (f : Frame) : Frame.ofBits f.toBits = f := by
  cases f
  simp only [Frame.ofBits, Frame.toBits, Frame.mk.injEq]
  refine ⟨?_, ?_, ?_, ?_, ?_⟩ <;>
    (apply BitVec.eq_of_getLsbD_eq; intro i hi; simp; grind)

@[simp] theorem MutOp.ofBits_toBits (op : MutOp) : MutOp.ofBits op.toBits = some op := by
  cases op <;> rfl

theorem MutOp.toBits_of_ofBits {v : BitVec 2} {op : MutOp} (h : MutOp.ofBits v = some op) : op.toBits = v := by
  simp only [MutOp.ofBits] at h
  grind [MutOp.toBits]

theorem MutOp.ofBits_eq_none (v : BitVec 2) : MutOp.ofBits v = none ↔ v = 3#2 := by
  revert v; decide

namespace Machine

@[simp] theorem stField_responseWord (st : Status) (p : Payload) : stField (responseWord st p) = st.code := by
  apply BitVec.eq_of_getLsbD_eq
  intro i hi
  simp [stField, responseWord]
  grind

@[simp] theorem payloadField_responseWord (st : Status) (p : Payload) : payloadField (responseWord st p) = p := by
  apply BitVec.eq_of_getLsbD_eq
  intro i hi
  simp [payloadField, responseWord]
  grind

@[simp] theorem statusOf_responseWord (st : Status) (p : Payload) : statusOf (responseWord st p) = some st := by
  cases st <;> simp [statusOf, Status.code]

@[simp] theorem payloadFrame_framePayload (f : Frame) : payloadFrame (framePayload f) = f := by
  have h : (framePayload f).extractLsb' 0 40 = f.toBits := by
    apply BitVec.eq_of_getLsbD_eq
    intro i hi
    simp [framePayload]
    grind
  simp [payloadFrame, h]

@[simp] theorem withBit7_getLsbD_seven (b : Byte) (v : Bool) : (withBit7 b v).getLsbD 7 = v := by
  have h : (withBit7 b v).getLsbD 7 = (BitVec.ofBool v ++ b.extractLsb' 0 7 : BitVec (1 + 7)).getLsbD 7 := rfl
  rw [h, BitVec.getLsbD_append]
  simp

/-- Replacing bit 7 leaves the bits below it alone. -/
@[simp] theorem withBit7_low (b : Byte) (v : Bool) (k n : Nat) (h : k + n ≤ 7) :
    (withBit7 b v).extractLsb' k n = b.extractLsb' k n := by
  apply BitVec.eq_of_getLsbD_eq
  intro i hi
  simp [withBit7]
  grind

end Machine
end Sys2Proof
end

