-- ==== Sys2Proof/Laws/State.lean ====
section
/-! SUPPORT. What each named update of State does to each field: one lemma per field per update, so that no later proof
unfolds a record update. The proofs are written `(rfl)`, so that simp applies a lemma as an equation and the kernel does not
compare two response words to see that two states are the same (that comparison can run out of stack). -/

namespace Sys2Proof.Machine

@[simp] theorem driveRsp_req (v : RspWord) (s : State) : (driveRsp v s).req = s.req := (rfl)
@[simp] theorem driveRsp_rsp (v : RspWord) (s : State) : (driveRsp v s).rsp = v := (rfl)
@[simp] theorem driveRsp_chip (v : RspWord) (s : State) : (driveRsp v s).chip = s.chip := (rfl)
@[simp] theorem driveRsp_soft (v : RspWord) (s : State) : (driveRsp v s).soft = s.soft := (rfl)
@[simp] theorem driveRsp_reply (v : RspWord) (s : State) : (driveRsp v s).reply = s.reply := (rfl)
@[simp] theorem driveRsp_faults (v : RspWord) (s : State) : (driveRsp v s).faults = s.faults := (rfl)
@[simp] theorem driveRsp_agenda (v : RspWord) (s : State) : (driveRsp v s).agenda = s.agenda := (rfl)
@[simp] theorem driveRsp_busInputs (v : RspWord) (s : State) : (driveRsp v s).busInputs = s.busInputs := (rfl)
@[simp] theorem driveRsp_busCount (v : RspWord) (s : State) : (driveRsp v s).busCount = s.busCount := (rfl)
@[simp] theorem driveRsp_wire (v : RspWord) (s : State) : (driveRsp v s).wire = s.wire := (rfl)

@[simp] theorem returning_req (r : Reply) (s : State) : (returning r s).req = s.req := (rfl)
@[simp] theorem returning_rsp (r : Reply) (s : State) : (returning r s).rsp = s.rsp := (rfl)
@[simp] theorem returning_chip (r : Reply) (s : State) : (returning r s).chip = s.chip := (rfl)
@[simp] theorem returning_soft (r : Reply) (s : State) : (returning r s).soft = s.soft := (rfl)
@[simp] theorem returning_reply (r : Reply) (s : State) : (returning r s).reply = r := (rfl)
@[simp] theorem returning_faults (r : Reply) (s : State) : (returning r s).faults = s.faults := (rfl)
@[simp] theorem returning_agenda (r : Reply) (s : State) : (returning r s).agenda = s.agenda := (rfl)
@[simp] theorem returning_busInputs (r : Reply) (s : State) : (returning r s).busInputs = s.busInputs := (rfl)
@[simp] theorem returning_busCount (r : Reply) (s : State) : (returning r s).busCount = s.busCount := (rfl)
@[simp] theorem returning_wire (r : Reply) (s : State) : (returning r s).wire = s.wire := (rfl)

@[simp] theorem tickBus_req (s : State) : (tickBus s).req = s.req := (rfl)
@[simp] theorem tickBus_rsp (s : State) : (tickBus s).rsp = s.rsp := (rfl)
@[simp] theorem tickBus_chip (s : State) : (tickBus s).chip = s.chip := (rfl)
@[simp] theorem tickBus_soft (s : State) : (tickBus s).soft = s.soft := (rfl)
@[simp] theorem tickBus_reply (s : State) : (tickBus s).reply = s.reply := (rfl)
@[simp] theorem tickBus_faults (s : State) : (tickBus s).faults = s.faults := (rfl)
@[simp] theorem tickBus_agenda (s : State) : (tickBus s).agenda = s.agenda := (rfl)
@[simp] theorem tickBus_busInputs (s : State) : (tickBus s).busInputs = s.busInputs.tail := (rfl)
@[simp] theorem tickBus_busCount (s : State) : (tickBus s).busCount = s.busCount + 1 := (rfl)
@[simp] theorem tickBus_wire (s : State) : (tickBus s).wire = s.wire := (rfl)

@[simp] theorem settle_req (ms : Nat) (s : State) : (settle ms s).req = s.req := (rfl)
@[simp] theorem settle_rsp (ms : Nat) (s : State) : (settle ms s).rsp = s.rsp := (rfl)
@[simp] theorem settle_chip (ms : Nat) (s : State) : (settle ms s).chip = { s.chip with standing := s.chip.standing.wait ms } := (rfl)
@[simp] theorem settle_soft (ms : Nat) (s : State) : (settle ms s).soft = s.soft := (rfl)
@[simp] theorem settle_reply (ms : Nat) (s : State) : (settle ms s).reply = s.reply := (rfl)
@[simp] theorem settle_faults (ms : Nat) (s : State) : (settle ms s).faults = s.faults := (rfl)
@[simp] theorem settle_agenda (ms : Nat) (s : State) : (settle ms s).agenda = s.agenda := (rfl)
@[simp] theorem settle_busInputs (ms : Nat) (s : State) : (settle ms s).busInputs = s.busInputs := (rfl)
@[simp] theorem settle_busCount (ms : Nat) (s : State) : (settle ms s).busCount = s.busCount := (rfl)
@[simp] theorem settle_wire (ms : Nat) (s : State) : (settle ms s).wire = s.wire := (rfl)

@[simp] theorem recordFault_req (e : Status) (s : State) : (recordFault e s).req = s.req := by cases e <;> rfl
@[simp] theorem recordFault_rsp (e : Status) (s : State) : (recordFault e s).rsp = s.rsp := by cases e <;> rfl
@[simp] theorem recordFault_chip (e : Status) (s : State) : (recordFault e s).chip = s.chip := by cases e <;> rfl
@[simp] theorem recordFault_soft (e : Status) (s : State) : (recordFault e s).soft = s.soft := by cases e <;> rfl
@[simp] theorem recordFault_reply (e : Status) (s : State) : (recordFault e s).reply = s.reply := by cases e <;> rfl
@[simp] theorem recordFault_agenda (e : Status) (s : State) : (recordFault e s).agenda = s.agenda := by cases e <;> rfl
@[simp] theorem recordFault_busInputs (e : Status) (s : State) : (recordFault e s).busInputs = s.busInputs := by cases e <;> rfl
@[simp] theorem recordFault_busCount (e : Status) (s : State) : (recordFault e s).busCount = s.busCount := by cases e <;> rfl
@[simp] theorem recordFault_wire (e : Status) (s : State) : (recordFault e s).wire = s.wire := by cases e <;> rfl
/-- InvalidFrequency is recorded, IllegalRequest is not. -/
@[simp] theorem recordFault_invalidFrequency (s : State) :
    recordFault .invalidFrequency s = { s with faults := .invalidFrequency :: s.faults } := (rfl)
@[simp] theorem recordFault_illegalRequest (s : State) : recordFault .illegalRequest s = s := (rfl)

@[simp] theorem takeError_req (e : Status) (s : State) : (takeError e s).req = s.req := by simp [takeError]
@[simp] theorem takeError_rsp (e : Status) (s : State) : (takeError e s).rsp = s.rsp := by simp [takeError]
@[simp] theorem takeError_chip (e : Status) (s : State) : (takeError e s).chip = s.chip := by simp [takeError]
@[simp] theorem takeError_soft (e : Status) (s : State) : (takeError e s).soft = s.soft := by simp [takeError]
@[simp] theorem takeError_agenda (e : Status) (s : State) : (takeError e s).agenda = s.agenda := by simp [takeError]
@[simp] theorem takeError_busInputs (e : Status) (s : State) : (takeError e s).busInputs = s.busInputs := by simp [takeError]
@[simp] theorem takeError_busCount (e : Status) (s : State) : (takeError e s).busCount = s.busCount := by simp [takeError]
@[simp] theorem takeError_wire (e : Status) (s : State) : (takeError e s).wire = s.wire := by simp [takeError]
@[simp] theorem takeError_reply (e : Status) (s : State) : (takeError e s).reply = .codecError e := by simp [takeError]
@[simp] theorem takeError_faults (e : Status) (s : State) : (takeError e s).faults = (recordFault e s).faults := by simp [takeError]

/-- The last driven response is the one that stands. -/
@[simp] theorem driveRsp_driveRsp (u v : RspWord) (s : State) : driveRsp u (driveRsp v s) = driveRsp u s := (rfl)

/-- `respond_ok` drives the response port and does nothing else. -/
theorem respondOk_eq (p : Payload) (s : State) : respondOk p s = driveRsp (responseWord .ok p) s := (rfl)

/-- Raising an error drives the response port and does nothing else. -/
theorem raise_eq (e : Status) (s : State) : raise e s = driveRsp (responseWord e 0) s := (rfl)

end Sys2Proof.Machine
end

