-- ==== Sys2Proof/Laws/Bus.lean ====
section
/-! SUPPORT. What a bus transaction can do, said once, and what a read of the chip brings. -/

namespace Sys2Proof.Machine

/-- What the codec answers does not touch the bus. -/
@[simp] theorem busAnswer_driveRsp (v : RspWord) (s : State) : busAnswer (driveRsp v s) = busAnswer s := (rfl)

@[simp] theorem busAnswer_respondOk (p : Payload) (s : State) : busAnswer (respondOk p s) = busAnswer s := (rfl)

@[simp] theorem busAnswer_raise (e : Status) (s : State) : busAnswer (raise e s) = busAnswer s := (rfl)

@[simp] theorem busAnswer_returning (r : Reply) (s : State) : busAnswer (returning r s) = busAnswer s := (rfl)

@[simp] theorem busAnswer_settle (ms : Nat) (s : State) : busAnswer (settle ms s) = busAnswer s := (rfl)

/-- With an answer given as an input, that is the answer. -/
theorem busAnswer_of_inputs {s : State} {a : BusAnswer} {rest : List BusAnswer} (h : s.busInputs = a :: rest) :
    busAnswer s = a := by
  simp [busAnswer, h]

theorem busRead_done {s : State} {raw : Frame} (h : busAnswer s = .done raw) (next : Frame → State → Result) :
    busRead s next = next (readFrame s.chip raw)
      { tickBus s with wire := .read Config.chipAddr (busBytes (readFrame s.chip raw)) :: s.wire } := by
  simp [busRead, h]

theorem busRead_failed {s : State} {c : BusError} {left : Frame} (h : busAnswer s = .failed c left)
    (next : Frame → State → Result) : busRead s next = .next (returning (.busError c) (tickBus s)) := by
  simp [busRead, h]

theorem busWrite_done {s : State} {raw : Frame} (h : busAnswer s = .done raw) (f : Frame) (k : WriteKind)
    (next : State → Result) :
    busWrite f k s next = next { tickBus s with
      chip := { reg := f, standing := .settling (settleMs k) }
      wire := .write Config.chipAddr (busBytes f) :: s.wire } := by
  simp [busWrite, h]

theorem busWrite_failed {s : State} {c : BusError} {left : Frame} (h : busAnswer s = .failed c left) (f : Frame)
    (k : WriteKind) (next : State → Result) :
    busWrite f k s next = .next (returning (.busError c)
      { tickBus s with chip := { reg := left, standing := .unknown } }) := by
  simp [busWrite, h]

/-- The delay a write asks for, waited out, settles it. -/
@[simp] theorem wait_settling_self (ms : Nat) : Standing.wait ms (.settling ms) = .settled := by
  simp [Standing.wait]

/-- A wait shorter than what is left leaves the rest of it. -/
theorem wait_settling_of_lt {ms left : Nat} (h : ms < left) : Standing.wait ms (.settling left) = .settling (left - ms) := by
  simp [Standing.wait, Nat.not_le.2 h]

/-- A wait that reaches what is left settles the chip. -/
theorem wait_settling_of_le {ms left : Nat} (h : left ≤ ms) : Standing.wait ms (.settling left) = .settled := by
  simp [Standing.wait, h]

/-- Waits add up. -/
theorem wait_wait (a b : Nat) (st : Standing) : Standing.wait b (Standing.wait a st) = Standing.wait (a + b) st := by
  cases st with
  | unknown => rfl
  | settled => rfl
  | settling left =>
    rcases Nat.lt_or_ge a left with ha | ha
    · rw [wait_settling_of_lt ha]
      rcases Nat.lt_or_ge (a + b) left with hb | hb
      · rw [wait_settling_of_lt hb, wait_settling_of_lt (by omega), Nat.sub_sub]
      · rw [wait_settling_of_le hb, wait_settling_of_le (by omega)]
    · rw [wait_settling_of_le ha, wait_settling_of_le (by omega)]
      rfl

theorem readFrame_settled {c : Chip} (h : c.standing = .settled) (raw : Frame) :
    readFrame c raw = withPll raw (pllField c.reg) := by
  simp [readFrame, h]

theorem readFrame_free {c : Chip} (h : c.standing ≠ .settled) (raw : Frame) : readFrame c raw = raw := by
  unfold readFrame
  cases hs : c.standing <;> simp_all

end Sys2Proof.Machine
end

