-- ==== Sys2Proof/Laws/Meanings.lean ====
section
/-! SUPPORT. What each meaning does, said once: every instruction drives the response port, with this word, and goes on;
and what the host gets from a request. -/

namespace Sys2Proof.Machine

theorem exec_quant (f : FreqKHz) (s : State) :
    exec (.quant f) s = .next (respondOk ((BitVec.ofNat 17 (gridQuant f.toNat)).setWidth 44) s) := (rfl)

theorem exec_enc_inBand {f : FreqKHz} (h : inBand f.toNat = true) (m st d : Bool) (s : State) :
    exec (.enc f m st d) s = .next (respondOk (framePayload (encodeFrame f.toNat m st d)) s) := by
  simp [exec, execEnc, h]

theorem exec_enc_outOfBand {f : FreqKHz} (h : inBand f.toNat = false) (m st d : Bool) (s : State) :
    exec (.enc f m st d) s = .next (raise .invalidFrequency s) := by
  simp [exec, execEnc, h]

theorem exec_dec (f : Frame) (s : State) : exec (.dec f) s = .next (respondOk (statusPayload f) s) := (rfl)

theorem exec_mod (f : Frame) (m st : MutOp) (s : State) :
    exec (.mod f m st) s = .next (respondOk (framePayload (modifyFrame f m st)) s) := (rfl)

/-- A MOD and the name R76 gives it have the same meaning. -/
theorem exec_named (i : Instr) (s : State) : exec i.named s = exec i s := by
  cases i with
  | mod f m st => cases m <;> cases st <;> rfl
  | _ => rfl

/-- An instruction and its expansion have the same meaning. -/
theorem exec_expand (i : Instr) (s : State) : exec i.expand s = exec i s := by
  cases i <;> rfl

/-- Everything an instruction can do: it drives one response word, the same in every state. -/
theorem exec_drives (i : Instr) : ∃ v, ∀ s, exec i s = .next (driveRsp v s) := by
  cases i with
  | enc f m st d =>
    cases h : inBand f.toNat
    · exact ⟨_, fun s => exec_enc_outOfBand h m st d s⟩
    · exact ⟨_, fun s => exec_enc_inBand h m st d s⟩
  | _ => exact ⟨_, fun s => rfl⟩

/-- Everything the codec can do with a request word: it drives one response word, the same in every state. -/
theorem answer_drives (w : ReqWord) : ∃ v, ∀ s, answer w s = .next (driveRsp v s) := by
  unfold answer
  cases decode w with
  | legal i => exact exec_drives i
  | illegal _ => exact ⟨_, fun s => rfl⟩

/-- Every response the codec drives is one of its own statuses with a payload. -/
theorem answer_responds (w : ReqWord) : ∃ e p, ∀ s, answer w s = .next (driveRsp (responseWord e p) s) := by
  unfold answer
  cases decode w with
  | illegal _ => exact ⟨_, _, fun s => rfl⟩
  | legal i =>
    cases i with
    | enc f m st d =>
      cases h : inBand f.toNat
      · exact ⟨_, _, fun s => exec_enc_outOfBand h m st d s⟩
      · exact ⟨_, _, fun s => exec_enc_inBand h m st d s⟩
    | _ => exact ⟨_, _, fun s => rfl⟩

/-- All a host's request can do: the codec drives its response, which the host then takes. -/
theorem callWord_eq {w : ReqWord} {v : RspWord} {s : State} (h : answer w s = .next (driveRsp v s))
    (next : Payload → State → Result) : callWord w s next = takeResponse next (driveRsp v s) := by
  simp [callWord, h, andThen]

/-- An OK response is taken by handing its payload on. -/
theorem takeResponse_ok {s : State} (h : statusOf s.rsp = some .ok) (next : Payload → State → Result) :
    takeResponse next s = next (payloadField s.rsp) s := by
  simp [takeResponse, h]

/-- An error response is taken without its payload, whatever was to follow. -/
theorem takeResponse_error {s : State} {e : Status} (h : statusOf s.rsp = some e) (he : e ≠ .ok)
    (next : Payload → State → Result) : takeResponse next s = .next (takeError e s) := by
  cases e <;> simp_all [takeResponse]

/-- What a macro gets from a request that is answered OK: the payload, in a state where only RSP has changed. -/
theorem callCodec_ok {i : Instr} {p : Payload} {s : State} (h : answer (encode i) s = .next (respondOk p s))
    (next : Payload → State → Result) : callCodec i s next = next p (respondOk p s) := by
  rw [callCodec, callWord_eq (h.trans (congrArg _ (respondOk_eq p s))), takeResponse_ok (by simp), respondOk_eq]
  simp

end Sys2Proof.Machine
end

