-- ==== Sys2Proof/Laws/Moves.lean ====
section
/-! SUPPORT. What a completed read, write or tune leaves in each field: one lemma per field per move. Where two states that
differ in RSP stand on the two sides of one projection, the lemma goes through the fields of `s` (a plain rfl makes the kernel
compare the two response words first). -/

namespace Sys2Proof.Spec
open Sys2Proof.Machine

@[simp] theorem didRead_req (s : State) (F : Frame) : (didRead s F).req = s.req := (rfl)
@[simp] theorem didRead_rsp (s : State) (F : Frame) : (didRead s F).rsp = s.rsp := (rfl)
@[simp] theorem didRead_chip (s : State) (F : Frame) : (didRead s F).chip = s.chip := (rfl)
@[simp] theorem didRead_soft (s : State) (F : Frame) : (didRead s F).soft = s.soft := (rfl)
@[simp] theorem didRead_reply (s : State) (F : Frame) : (didRead s F).reply = s.reply := (rfl)
@[simp] theorem didRead_faults (s : State) (F : Frame) : (didRead s F).faults = s.faults := (rfl)
@[simp] theorem didRead_agenda (s : State) (F : Frame) : (didRead s F).agenda = s.agenda := (rfl)
@[simp] theorem didRead_busInputs (s : State) (F : Frame) : (didRead s F).busInputs = s.busInputs.tail := (rfl)
@[simp] theorem didRead_busCount (s : State) (F : Frame) : (didRead s F).busCount = s.busCount + 1 := (rfl)
@[simp] theorem didRead_wire (s : State) (F : Frame) :
    (didRead s F).wire = .read Config.chipAddr (busBytes F) :: s.wire := (rfl)

@[simp] theorem wrote_req (s : State) (F : Frame) (soft : SoftState) (r : Reply) : (wrote s F soft r).req = s.req := by
  cases s; dsimp only [wrote]
@[simp] theorem wrote_rsp (s : State) (F : Frame) (soft : SoftState) (r : Reply) :
    (wrote s F soft r).rsp = 0#8 ++ F.toBits := (rfl)
@[simp] theorem wrote_chip (s : State) (F : Frame) (soft : SoftState) (r : Reply) :
    (wrote s F soft r).chip = { reg := F, standing := .settled } := (rfl)
@[simp] theorem wrote_soft (s : State) (F : Frame) (soft : SoftState) (r : Reply) : (wrote s F soft r).soft = soft := (rfl)
@[simp] theorem wrote_reply (s : State) (F : Frame) (soft : SoftState) (r : Reply) : (wrote s F soft r).reply = r := (rfl)
@[simp] theorem wrote_faults (s : State) (F : Frame) (soft : SoftState) (r : Reply) :
    (wrote s F soft r).faults = s.faults := by
  cases s; dsimp only [wrote]
@[simp] theorem wrote_agenda (s : State) (F : Frame) (soft : SoftState) (r : Reply) :
    (wrote s F soft r).agenda = s.agenda := by
  cases s; dsimp only [wrote]
@[simp] theorem wrote_busInputs (s : State) (F : Frame) (soft : SoftState) (r : Reply) :
    (wrote s F soft r).busInputs = s.busInputs.tail := (rfl)
@[simp] theorem wrote_busCount (s : State) (F : Frame) (soft : SoftState) (r : Reply) :
    (wrote s F soft r).busCount = s.busCount + 1 := (rfl)
@[simp] theorem wrote_wire (s : State) (F : Frame) (soft : SoftState) (r : Reply) :
    (wrote s F soft r).wire = .write Config.chipAddr (busBytes F) :: s.wire := (rfl)

@[simp] theorem tuned_req (s : State) (q : Nat) : (tuned s q).req = s.req := by simp [tuned]
@[simp] theorem tuned_chip (s : State) (q : Nat) :
    (tuned s q).chip = { reg := encodeFrame q false (!s.soft.forcedMono) true, standing := .settled } := by simp [tuned]
@[simp] theorem tuned_soft (s : State) (q : Nat) : (tuned s q).soft = { s.soft with current := some q } := by simp [tuned]
@[simp] theorem tuned_reply (s : State) (q : Nat) : (tuned s q).reply = .committed q := by simp [tuned]
@[simp] theorem tuned_faults (s : State) (q : Nat) : (tuned s q).faults = s.faults := by simp [tuned]
@[simp] theorem tuned_agenda (s : State) (q : Nat) : (tuned s q).agenda = s.agenda := by simp [tuned]
@[simp] theorem tuned_busInputs (s : State) (q : Nat) : (tuned s q).busInputs = s.busInputs.tail := by simp [tuned]
@[simp] theorem tuned_busCount (s : State) (q : Nat) : (tuned s q).busCount = s.busCount + 1 := by simp [tuned]
@[simp] theorem tuned_wire (s : State) (q : Nat) : (tuned s q).wire =
    .write Config.chipAddr (busBytes (encodeFrame q false (!s.soft.forcedMono) true)) :: s.wire := by simp [tuned]

end Sys2Proof.Spec
end

