-- ==== Sys2Proof/Laws/Quantizer.lean ====
section
/-! SUPPORT. The quantisers with the parameters of R6 written out, in the form omega takes. -/

namespace Sys2Proof.Machine

theorem gridQuant_eq (f : Nat) : gridQuant f = 100 * min (max ((f + 50) / 100) 875) 1080 := rfl

theorem pllOfKHz_eq (f : Nat) : pllOfKHz f = (4 * (1000 * f + 225000)) / 32768 := rfl

theorem khzOfPll_eq (p : Nat) :
    khzOfPll p = ((p : Int) * 8192 - 225000) / 1000 + (if ((p : Int) * 8192 - 225000) % 1000 > 500 then 1 else 0) := rfl

theorem inBand_iff (f : Nat) : inBand f = true ↔ 87500 ≤ f ∧ f ≤ 108000 := by
  rw [inBand, Bool.and_eq_true, decide_eq_true_eq, decide_eq_true_eq]
  exact Iff.rfl

theorem inBand_eq_false_iff (f : Nat) : inBand f = false ↔ f < 87500 ∨ 108000 < f := by
  rw [← Bool.not_eq_true, inBand_iff]
  omega

end Sys2Proof.Machine
end

