-- ==== Sys2Proof/Laws/Words.lean ====
section
/-! SUPPORT. Request words and frames bit by bit: which operand bit stands at which bit of the word. -/

namespace Sys2Proof

/-- Bit `k` of a frame's 40-bit vector. -/
theorem Frame.toBits_getLsbD (f : Frame) (k : Nat) : f.toBits.getLsbD k =
    if k < 8 then f.byte4.getLsbD k else if k < 16 then f.byte3.getLsbD (k - 8)
    else if k < 24 then f.byte2.getLsbD (k - 16) else if k < 32 then f.byte1.getLsbD (k - 24)
    else f.byte0.getLsbD (k - 32) := by
  show BitVec.getLsbD (w := 8 + 8 + 8 + 8 + 8) (f.byte0 ++ f.byte1 ++ f.byte2 ++ f.byte3 ++ f.byte4) k = _
  simp only [BitVec.getLsbD_append, Nat.sub_sub]
  split_ifs <;> first | rfl | omega

theorem encode_quant_getLsbD (f : FreqKHz) (k : Nat) : (encode (.quant f)).getLsbD k =
    if k < 18 then f.getLsbD k else if k < 44 then false else (0x1#4).getLsbD (k - 44) := by
  show BitVec.getLsbD (w := 4 + 26 + 18) (0x1#4 ++ 0#26 ++ f) k = _
  simp only [BitVec.getLsbD_append, BitVec.getLsbD_zero, Nat.sub_sub]
  split_ifs <;> first | rfl | omega

theorem encode_enc_getLsbD (f : FreqKHz) (m s d : Bool) (k : Nat) : (encode (.enc f m s d)).getLsbD k =
    if k < 18 then f.getLsbD k else if k < 19 then m else if k < 20 then s else if k < 21 then d
    else if k < 44 then false else (0x2#4).getLsbD (k - 44) := by
  show BitVec.getLsbD (w := 4 + 23 + 1 + 1 + 1 + 18)
    (0x2#4 ++ 0#23 ++ BitVec.ofBool d ++ BitVec.ofBool s ++ BitVec.ofBool m ++ f) k = _
  simp only [BitVec.getLsbD_append, BitVec.getLsbD_zero, Nat.sub_sub, BitVec.getLsbD_ofBool]
  split_ifs <;> first | rfl | omega | (simp; try omega)

theorem encode_dec_getLsbD (f : Frame) (k : Nat) : (encode (.dec f)).getLsbD k =
    if k < 40 then f.toBits.getLsbD k else if k < 44 then false else (0x3#4).getLsbD (k - 44) := by
  show BitVec.getLsbD (w := 4 + 4 + 40) (0x3#4 ++ 0#4 ++ f.toBits) k = _
  simp only [BitVec.getLsbD_append, BitVec.getLsbD_zero, Nat.sub_sub]
  split_ifs <;> first | rfl | omega

theorem encode_mod_getLsbD (f : Frame) (m s : MutOp) (k : Nat) : (encode (.mod f m s)).getLsbD k =
    if k < 40 then f.toBits.getLsbD k else if k < 42 then m.toBits.getLsbD (k - 40)
    else if k < 44 then s.toBits.getLsbD (k - 42) else (0x4#4).getLsbD (k - 44) := by
  show BitVec.getLsbD (w := 4 + 2 + 2 + 40) (0x4#4 ++ s.toBits ++ m.toBits ++ f.toBits) k = _
  simp only [BitVec.getLsbD_append, Nat.sub_sub]
  split_ifs <;> first | rfl | omega

/-- The pseudo-instructions of R76: the byte `REQ[47:40]` above the frame. -/
theorem byte_above_frame_getLsbD (b : BitVec 8) (f : Frame) (k : Nat) :
    BitVec.getLsbD (w := 48) (b ++ f.toBits) k = if k < 40 then f.toBits.getLsbD k else b.getLsbD (k - 40) := by
  show BitVec.getLsbD (w := 8 + 40) (b ++ f.toBits) k = _
  simp only [BitVec.getLsbD_append]

namespace Machine

/-- Bit `k` of a response word. -/
theorem responseWord_getLsbD (st : Status) (p : Payload) (k : Nat) :
    (responseWord st p).getLsbD k = if k < 44 then p.getLsbD k else st.code.getLsbD (k - 44) := by
  show BitVec.getLsbD (w := 4 + 44) (st.code ++ p) k = _
  simp only [BitVec.getLsbD_append]

/-- Bit `k` of a payload that carries a frame. -/
theorem framePayload_getLsbD (f : Frame) (k : Nat) :
    (framePayload f).getLsbD k = if k < 40 then f.toBits.getLsbD k else false := by
  show BitVec.getLsbD (w := 4 + 40) (0#4 ++ f.toBits) k = _
  simp only [BitVec.getLsbD_append, BitVec.getLsbD_zero]

/-- Bit `k` of a byte whose bit 7 has been replaced. -/
theorem withBit7_getLsbD (b : Byte) (v : Bool) (k : Nat) :
    (withBit7 b v).getLsbD k = if k < 7 then b.getLsbD k else (decide (k = 7) && v) := by
  show BitVec.getLsbD (w := 1 + 7) (BitVec.ofBool v ++ b.extractLsb' 0 7) k = _
  simp only [BitVec.getLsbD_append, BitVec.getLsbD_extractLsb', BitVec.getLsbD_ofBool]
  split_ifs <;> (simp_all; try grind)

/-- Bit `k` of a frame's PLL word. -/
theorem pllField_getLsbD (f : Frame) (k : Nat) :
    (pllField f).getLsbD k = if k < 8 then f.byte1.getLsbD k else (decide (k - 8 < 6) && f.byte0.getLsbD (k - 8)) := by
  show BitVec.getLsbD (w := 6 + 8) (f.byte0.extractLsb' 0 6 ++ f.byte1) k = _
  simp only [BitVec.getLsbD_append, BitVec.getLsbD_extractLsb', Nat.zero_add]

end Machine
end Sys2Proof
end

