-- ==== Sys2Proof/Laws/Macros.lean ====
section
/-! SUPPORT. What each macro can do, said once. The hypothesis `hd` of a lemma, that the codec runs the instruction a word
encodes, is what the statements about encoding and decoding give. -/

namespace Sys2Proof.Machine
open Sys2Proof.Spec

/-- A write that succeeds: the frame stands in the chip's register, settled; the soft state and the reply are updated; one
bus answer is used and one transfer recorded; nothing else changes. -/
theorem writeBack_done {s : State} {raw : Frame} (h : busAnswer s = .done raw) (f : Frame) (kind : WriteKind)
    (update : SoftState → SoftState) (r : Reply) :
    writeBack f kind update r s = .next { s with
      chip := { reg := f, standing := .settled }
      soft := update s.soft
      reply := r
      busInputs := s.busInputs.tail
      busCount := s.busCount + 1
      wire := .write Config.chipAddr (busBytes f) :: s.wire } := by
  rw [writeBack, busWrite_done h]
  simp [settle, returning, tickBus]

/-- A write that fails: the error is returned, the chip's register holds anything, the soft state is as before. -/
theorem writeBack_failed {s : State} {c : BusError} {left : Frame} (h : busAnswer s = .failed c left) (f : Frame)
    (kind : WriteKind) (update : SoftState → SoftState) (r : Reply) :
    writeBack f kind update r s = .next (returning (.busError c)
      { tickBus s with chip := { reg := left, standing := .unknown } }) := by
  rw [writeBack, busWrite_failed h]

/-- The response word that carries a frame. -/
theorem responseWord_framePayload (F : Frame) : responseWord .ok (framePayload F) = 0#8 ++ F.toBits := by
  apply BitVec.eq_of_getLsbD_eq
  intro i hi
  rw [responseWord_getLsbD, framePayload_getLsbD, byte_above_frame_getLsbD]
  simp only [Status.code]
  split_ifs <;> first | rfl | omega | simp

/-- A write of the frame the codec has just answered, when it succeeds. -/
theorem writeBack_answered {s : State} {raw : Frame} (h : busAnswer s = .done raw) (F : Frame) (kind : WriteKind)
    (update : SoftState → SoftState) (r : Reply) :
    writeBack F kind update r (respondOk (framePayload F) s) = .next (wrote s F (update s.soft) r) := by
  rw [writeBack_done (raw := raw) (by rw [busAnswer_respondOk, h])]
  simp only [respondOk_eq, driveRsp_req, driveRsp_rsp, driveRsp_soft, driveRsp_agenda, driveRsp_busInputs,
    driveRsp_busCount, driveRsp_wire, responseWord_framePayload]
  rfl

/-- What a tune's payload of QUANT carries. -/
theorem payloadFq_quant (f : Nat) :
    (payloadFq ((BitVec.ofNat 17 (gridQuant f)).setWidth 44)).toNat = gridQuant f ∧
    ((payloadFq ((BitVec.ofNat 17 (gridQuant f)).setWidth 44)).setWidth 18).toNat = gridQuant f := by
  have h : gridQuant f ≤ 108000 := by rw [gridQuant_eq]; omega
  have e : payloadFq ((BitVec.ofNat 17 (gridQuant f)).setWidth 44) = BitVec.ofNat 17 (gridQuant f) := by
    apply BitVec.eq_of_toNat_eq
    simp [payloadFq]
  rw [e, BitVec.toNat_setWidth, BitVec.toNat_ofNat]
  omega

theorem inBand_gridQuant (f : Nat) : inBand (gridQuant f) = true := by
  rw [inBand_iff, gridQuant_eq]
  omega

/-- All the common end of TUNE_TO and STEP can do: the grid frequency is written, settled, stored and returned; or the write
fails, and the error is all that is left of it. -/
theorem writeTune_cases (hd : ∀ i s, answer (encode i) s = exec i s) (f : FreqKHz) (s : State) :
    (∃ raw, busAnswer s = .done raw ∧ writeTune f s = .next (tuned s (gridQuant f.toNat))) ∨
    (∃ c left v, busAnswer s = .failed c left ∧ writeTune f s = .next (returning (.busError c)
      { tickBus (driveRsp v s) with chip := { reg := left, standing := .unknown } })) := by
  obtain ⟨e1, e2⟩ := payloadFq_quant f.toNat
  have hb := inBand_gridQuant f.toNat
  have h : writeTune f s = writeBack (encodeFrame (gridQuant f.toNat) false (!s.soft.forcedMono) true) .frequency
      (fun soft => { soft with current := some (gridQuant f.toNat) }) (.committed (gridQuant f.toNat))
      (respondOk (framePayload (encodeFrame (gridQuant f.toNat) false (!s.soft.forcedMono) true)) s) := by
    unfold writeTune
    rw [callCodec_ok (by rw [hd, exec_quant])]
    simp only
    rw [callCodec_ok (by rw [hd, exec_enc_inBand (by rw [e2]; exact hb)]), e2, payloadFrame_framePayload, e1]
    simp only [respondOk_eq, driveRsp_driveRsp, driveRsp_soft]
  rw [h]
  generalize hF : encodeFrame (gridQuant f.toNat) false (!s.soft.forcedMono) true = F
  cases ha : busAnswer s with
  | done raw =>
    refine .inl ⟨raw, rfl, ?_⟩
    rw [writeBack_answered ha, tuned, hF]
  | failed c left =>
    refine .inr ⟨c, left, responseWord .ok (framePayload F), rfl, ?_⟩
    rw [writeBack_failed (c := c) (left := left) (by rw [busAnswer_respondOk, ha]), respondOk_eq]

/-- All a read-modify-write can do: the read fails; the write after it fails; or the modified frame is written, settled, and
the soft state updated. -/
theorem modifyWrite_cases (hd : ∀ i s, answer (encode i) s = exec i s) (m st : MutOp) (update : SoftState → SoftState)
    (s : State) :
    (∃ c left, busAnswer s = .failed c left ∧
      modifyWrite m st update s = .next (returning (.busError c) (tickBus s))) ∨
    (∃ raw c left v, busAnswer s = .done raw ∧ busAnswer (didRead s (readFrame s.chip raw)) = .failed c left ∧
      modifyWrite m st update s = .next (returning (.busError c)
        { tickBus (driveRsp v (didRead s (readFrame s.chip raw))) with chip := { reg := left, standing := .unknown } })) ∨
    (∃ raw raw', busAnswer s = .done raw ∧ busAnswer (didRead s (readFrame s.chip raw)) = .done raw' ∧
      modifyWrite m st update s = .next (wrote (didRead s (readFrame s.chip raw))
        (modifyFrame (readFrame s.chip raw) m st) (update s.soft) .done)) := by
  cases h : busAnswer s with
  | failed c left => exact .inl ⟨c, left, rfl, busRead_failed h _⟩
  | done raw =>
    right
    generalize hr : readFrame s.chip raw = r
    have e : modifyWrite m st update s = writeBack (modifyFrame r m st) .modify update .done
        (respondOk (framePayload (modifyFrame r m st)) (didRead s r)) := by
      unfold modifyWrite
      rw [busRead_done h, hr, callCodec_ok (by rw [hd, exec_mod])]
      simp only [payloadFrame_framePayload]
      rfl
    rw [e]
    generalize hF : modifyFrame r m st = F
    cases h2 : busAnswer (didRead s r) with
    | failed c left =>
      refine .inl ⟨raw, c, left, responseWord .ok (framePayload F), rfl, by rw [hr, h2], ?_⟩
      rw [writeBack_failed (c := c) (left := left) (by rw [busAnswer_respondOk, h2]), respondOk_eq, hr]
    | done raw' =>
      refine .inr ⟨raw, raw', rfl, by rw [hr, h2], ?_⟩
      rw [writeBack_answered h2, didRead_soft, hr, hF]

/-- All STEP can do: it tunes from the stored frequency; or, without one, its read fails, or it tunes from the decoded
frequency of the frame it read. -/
theorem hostStep_cases (hd : ∀ i s, answer (encode i) s = exec i s) (dir : Direction) (s : State) :
    (∃ cur, s.soft.current = some cur ∧ hostStep dir s = writeTune (saturateKHz (stepTarget dir cur)) s) ∨
    (∃ c left, s.soft.current = none ∧ busAnswer s = .failed c left ∧
      hostStep dir s = .next (returning (.busError c) (tickBus s))) ∨
    (∃ raw, s.soft.current = none ∧ busAnswer s = .done raw ∧
      hostStep dir s = writeTune
        (saturateKHz (stepTarget dir (max (int19 (payloadFreqS (statusPayload (readFrame s.chip raw)))) 0)))
        (respondOk (statusPayload (readFrame s.chip raw)) (didRead s (readFrame s.chip raw)))) := by
  unfold hostStep
  cases s.soft.current with
  | some cur => exact .inl ⟨cur, rfl, rfl⟩
  | none =>
    right
    cases h : busAnswer s with
    | failed c left => exact .inl ⟨c, left, rfl, rfl, busRead_failed h _⟩
    | done raw =>
      refine .inr ⟨raw, rfl, rfl, ?_⟩
      simp only [busRead_done h]
      generalize readFrame s.chip raw = r
      rw [callCodec_ok (by rw [hd, exec_dec])]
      generalize statusPayload r = p
      rfl

/-- All READ_STATUS can do: the read fails, or the frame it brings is decoded and reported. -/
theorem hostReadStatus_cases (hd : ∀ i s, answer (encode i) s = exec i s) (s : State) :
    (∃ c left, busAnswer s = .failed c left ∧ hostReadStatus s = .next (returning (.busError c) (tickBus s))) ∨
    (∃ raw, busAnswer s = .done raw ∧
      let r := readFrame s.chip raw
      let p := statusPayload r
      hostReadStatus s = .next (returning (.status
        { ifReady := payloadIfReady p
          stereo := payloadStereo p
          signal := payloadSignal p
          freqKHz := int19 (payloadFreqS p)
          muted := s.soft.muted
          raw := r }) (respondOk p (didRead s r)))) := by
  unfold hostReadStatus
  cases h : busAnswer s with
  | failed c left => exact .inl ⟨c, left, rfl, busRead_failed h _⟩
  | done raw =>
    refine .inr ⟨raw, rfl, ?_⟩
    simp only [busRead_done h]
    generalize readFrame s.chip raw = r
    rw [callCodec_ok (by rw [hd, exec_dec])]
    generalize statusPayload r = p
    rfl

/-- All a direct request can do: its payload is returned, or its error is taken; beside that only RSP changes. -/
theorem hostRequest_cases (w : ReqWord) (s : State) :
    (∃ p, hostRequest w s = .next (returning (.response p) (driveRsp (responseWord .ok p) s))) ∨
    (∃ e p, e ≠ .ok ∧ hostRequest w s = .next (takeError e (driveRsp (responseWord e p) s))) := by
  obtain ⟨e, p, h⟩ := answer_responds w
  rw [hostRequest, callWord_eq (h s)]
  by_cases he : e = .ok
  · subst he
    exact .inl ⟨p, by rw [takeResponse_ok (by simp), driveRsp_rsp, payloadField_responseWord]⟩
  · exact .inr ⟨e, p, he, takeResponse_error (by simp) he _⟩

end Sys2Proof.Machine
end

