-- ==== Sys2Proof/Laws/PerInstr.lean ====
section
/-! SUPPORT. Per instruction: the word of an instruction lies in its row of the opcode table (30_encoding.md R60, R76, R78;
spec/opcode_table.json). -/

namespace Sys2Proof.Laws.TableRow

/-- The word of `i` meets the match and mask of `i`'s row, and the row's opcode is the word's `OP`. -/
def Statement (i : Instr) : Prop :=
  encode i &&& i.maskBits = i.matchBits ∧ i.matchBits.extractLsb' 44 4 = i.opcode

/-- The words of the pseudo-instructions all have the form of R76. -/
theorem named_mask (b : BitVec 8) (f : Frame) :
    (b ++ f.toBits : BitVec (8 + 40)) &&& (0xFF#8 ++ 0#40 : BitVec (8 + 40)) = (b ++ 0#40 : BitVec (8 + 40)) := by
  apply BitVec.eq_of_getLsbD_eq
  intro i hi
  simp only [BitVec.getLsbD_and, BitVec.getLsbD_append, BitVec.getLsbD_zero]
  split_ifs with h
  · simp
  · have : i - 40 < 8 := by omega
    generalize i - 40 = j at this
    interval_cases j <;> simp

theorem quant (f : FreqKHz) : Statement (.quant f) := by
  refine ⟨BitVec.eq_of_getLsbD_eq fun i hi => ?_, by simp [Instr.matchBits, Instr.opcode]⟩
  rw [BitVec.getLsbD_and, encode_quant_getLsbD]
  simp only [Instr.maskBits, Instr.matchBits]
  interval_cases i <;> simp

theorem enc (f : FreqKHz) (m s d : Bool) : Statement (.enc f m s d) := by
  refine ⟨BitVec.eq_of_getLsbD_eq fun i hi => ?_, by simp [Instr.matchBits, Instr.opcode]⟩
  rw [BitVec.getLsbD_and, encode_enc_getLsbD]
  simp only [Instr.maskBits, Instr.matchBits]
  interval_cases i <;> simp

theorem dec (f : Frame) : Statement (.dec f) := by
  refine ⟨BitVec.eq_of_getLsbD_eq fun i hi => ?_, by simp [Instr.matchBits, Instr.opcode]⟩
  rw [BitVec.getLsbD_and, encode_dec_getLsbD]
  simp only [Instr.maskBits, Instr.matchBits]
  interval_cases i <;> simp

theorem mod (f : Frame) (m s : MutOp) : Statement (.mod f m s) := by
  refine ⟨BitVec.eq_of_getLsbD_eq fun i hi => ?_, by simp [Instr.matchBits, Instr.opcode]⟩
  rw [BitVec.getLsbD_and, encode_mod_getLsbD]
  simp only [Instr.maskBits, Instr.matchBits]
  interval_cases i <;> simp

theorem modRewrite (f : Frame) : Statement (.modRewrite f) := ⟨named_mask 0x40 f, by simp [Instr.matchBits, Instr.opcode]⟩

theorem modMute (f : Frame) : Statement (.modMute f) := ⟨named_mask 0x41 f, by simp [Instr.matchBits, Instr.opcode]⟩

theorem modUnmute (f : Frame) : Statement (.modUnmute f) := ⟨named_mask 0x42 f, by simp [Instr.matchBits, Instr.opcode]⟩

theorem modStereo (f : Frame) : Statement (.modStereo f) := ⟨named_mask 0x44 f, by simp [Instr.matchBits, Instr.opcode]⟩

theorem modMono (f : Frame) : Statement (.modMono f) := ⟨named_mask 0x48 f, by simp [Instr.matchBits, Instr.opcode]⟩

end Sys2Proof.Laws.TableRow
end

