-- ==== Sys2Proof/Tests/Slice0.lean ====
section
/-! SUPPORT. Tests of the model against words, vectors and programs of the spec (30_encoding.md, 95_test_vectors.md), and for
every statement with hypotheses a witness that meets them. Expected results are the spec's own. -/

namespace Sys2Proof.Tests
open Sys2Proof Sys2Proof.Machine Sys2Proof.Spec

/-- A small state: nothing known of the chip, nothing to do. -/
def idle : State where
  req := none
  rsp := 0
  chip := { reg := ⟨0, 0, 0, 0, 0⟩, standing := .unknown }
  soft := ⟨none, false, false⟩
  reply := .nothing
  faults := []
  agenda := []
  busInputs := []
  busCount := 0
  wire := []

/-- The same with this soft state, and these frames as the answers of the next bus transactions. -/
def withBus (soft : SoftState) (frames : List Frame) : State :=
  { idle with soft := soft, busInputs := frames.map .done }

/-- The next state of an outcome. -/
def after (o : Result) : State :=
  match o with
  | .next t => t
  | .fault _ => idle
  | .refused _ => idle

/-- The frame `AE 2B B5 A7 C3` of the vectors of 95_test_vectors.md 2.4. -/
def readA : Frame := ⟨0xAE, 0x2B, 0xB5, 0xA7, 0xC3⟩

/-! ## WellFormed -/

/-- A MOD that R76 names is refused under MOD's own name, through either operand; the four that have no other name are not. -/
theorem test_wellFormed_refuses_named_mods :
    (Instr.mod readA .nop .nop).wellFormed = false ∧ (Instr.mod readA .set .nop).wellFormed = false ∧
    (Instr.mod readA .clr .nop).wellFormed = false ∧ (Instr.mod readA .nop .set).wellFormed = false ∧
    (Instr.mod readA .nop .clr).wellFormed = false ∧ (Instr.mod readA .set .set).wellFormed = true ∧
    (Instr.mod readA .set .clr).wellFormed = true ∧ (Instr.mod readA .clr .set).wellFormed = true ∧
    (Instr.mod readA .clr .clr).wellFormed = true := by decide

/-! ## Decoding: one word of each row written out bit by bit, and back -/

/-- R62: `0001`, 26 zeros, 18 bits of frequency (200 000 kHz). -/
theorem test_decode_quant :
    decode 0b0001_00000000000000000000000000_110000110101000000#48 = .legal (.quant 200000#18) ∧
    encode (.quant 200000#18) = 0x100000030D40#48 := by decide

/-- R63: `0010`, 23 zeros, de50, stereo, mute, 18 bits of frequency (96 600 kHz). -/
theorem test_decode_enc :
    decode 0b0010_00000000000000000000000_1_1_0_010111100101011000#48 = .legal (.enc 96600#18 false true true) ∧
    encode (.enc 96600#18 false true true) = 0x200000197958#48 ∧
    decode 0x2000001D7958#48 = .legal (.enc 96600#18 true true true) ∧
    decode 0x200000117958#48 = .legal (.enc 96600#18 false false true) ∧
    decode 0x200000097958#48 = .legal (.enc 96600#18 false true false) := by decide

/-- R64: `0011 0000` and five bytes. -/
theorem test_decode_dec :
    decode 0b0011_0000_10101110_00101011_10000000_10100111_00000000#48 = .legal (.dec ⟨0xAE, 0x2B, 0x80, 0xA7, 0x00⟩) ∧
    encode (.dec ⟨0xAE, 0x2B, 0x80, 0xA7, 0x00⟩) = 0x30AE2B80A700#48 := by decide

/-- R65: `0100`, stereo operation, mute operation, five bytes: mute SET and stereo CLR. -/
theorem test_decode_mod :
    decode 0b0100_10_01_10101110_00101011_10110101_10100111_11000011#48 = .legal (.mod readA .set .clr) ∧
    encode (.mod readA .set .clr) = 0x49AE2BB5A7C3#48 ∧ decode 0x46AE2BB5A7C3#48 = .legal (.mod readA .clr .set) := by
  decide

theorem test_decode_modRewrite :
    decode 0b0100_00_00_10101110_00101011_10110101_10100111_11000011#48 = .legal (.modRewrite readA) ∧
    encode (.modRewrite readA) = 0x40AE2BB5A7C3#48 := by decide

theorem test_decode_modMute :
    decode 0b0100_00_01_10101110_00101011_10110101_10100111_11000011#48 = .legal (.modMute readA) ∧
    encode (.modMute readA) = 0x41AE2BB5A7C3#48 := by decide

theorem test_decode_modUnmute :
    decode 0b0100_00_10_10101110_00101011_10110101_10100111_11000011#48 = .legal (.modUnmute readA) ∧
    encode (.modUnmute readA) = 0x42AE2BB5A7C3#48 := by decide

theorem test_decode_modStereo :
    decode 0b0100_01_00_10101110_00101011_10110101_10100111_11000011#48 = .legal (.modStereo readA) ∧
    encode (.modStereo readA) = 0x44AE2BB5A7C3#48 := by decide

theorem test_decode_modMono :
    decode 0b0100_10_00_10101110_00101011_10110101_10100111_11000011#48 = .legal (.modMono readA) ∧
    encode (.modMono readA) = 0x48AE2BB5A7C3#48 := by decide

/-- 95_test_vectors.md 2.4 and 2.5: the illegal words, with the reason R69 gives. -/
theorem test_decode_illegal :
    decode 0x000000000000#48 = .illegal .reservedOpcode ∧ decode 0x000000000001#48 = .illegal .reservedOpcode ∧
    decode 0x500000000000#48 = .illegal .reservedOpcode ∧ decode 0xF00000000000#48 = .illegal .reservedOpcode ∧
    decode 0xFFFFFFFFFFFF#48 = .illegal .reservedOpcode ∧ decode 0x100000057958#48 = .illegal .reservedBits ∧
    decode 0x180000000000#48 = .illegal .reservedBits ∧ decode 0x200000217958#48 = .illegal .reservedBits ∧
    decode 0x312E2B801000#48 = .illegal .reservedBits ∧ decode 0x380000000000#48 = .illegal .reservedBits ∧
    decode 0x43AE2BB5A7C3#48 = .illegal .reservedMutator ∧ decode 0x4CAE2BB5A7C3#48 = .illegal .reservedMutator ∧
    decode 0x4FAE2BB5A7C3#48 = .illegal .reservedMutator := by decide

/-- The host's two probes: the table word decodes, and the very next step answers it. -/
theorem test_table_word :
    decodeTableWord 48 0x30AE2B80A700 = some (.dec ⟨0xAE, 0x2B, 0x80, 0xA7, 0x00⟩) ∧ decodeTableWord 48 0 = none ∧
    (after (step (State.reset.withFetchWord 48 0x30AE2B80A700))).rsp = 0x000001D17954#48 := by decide +kernel

/-! ## The instructions: vectors of 95_test_vectors.md part 2 -/

theorem test_quant_half_goes_up :
    codec 0x1000000155FD#48 = 0x0000000155CC#48 ∧ codec 0x1000000155FE#48 = 0x000000015630#48 ∧
    codec 0x10000001A5AD#48 = 0x00000001A57C#48 ∧ codec 0x10000001A5AE#48 = 0x00000001A5E0#48 := by decide +kernel

theorem test_quant_clamps :
    codec 0x100000000000#48 = 0x0000000155CC#48 ∧ codec 0x10000003FFFF#48 = 0x00000001A5E0#48 ∧
    codec 0x100000057958#48 = 0x200000000000#48 := by decide +kernel

theorem test_enc_flags :
    codec 0x200000197958#48 = 0x002E2B801000#48 ∧ codec 0x2000001D7958#48 = 0x00AE2B801000#48 ∧
    codec 0x200000117958#48 = 0x002E2B001000#48 ∧ codec 0x200000097958#48 = 0x002E2B800000#48 ∧
    codec 0x20000019798A#48 = 0x002E31801000#48 := by decide +kernel

theorem test_enc_band :
    codec 0x2000001955CC#48 = 0x0029D4801000#48 ∧ codec 0x20000019A5E0#48 = 0x00339B801000#48 ∧
    codec 0x2000001955CB#48 = 0x100000000000#48 ∧ codec 0x20000019A5E1#48 = 0x100000000000#48 ∧
    codec 0x200000200005#48 = 0x200000000000#48 := by decide +kernel

theorem test_dec_fields :
    codec 0x30AE2B80A700#48 = 0x000001D17954#48 ∧ codec 0x306E2B7F0FFF#48 = 0x000000017954#48 ∧
    codec 0x30B39BFFF0AA#48 = 0x000001F9A5E0#48 ∧ codec 0x303395805000#48 = 0x000000A9A5AE#48 := by decide +kernel

theorem test_dec_signed :
    codec 0x300000000000#48 = 0x00000007FF1F#48 ∧ codec 0x308001000000#48 = 0x00000107FF27#48 ∧
    codec 0x30001B000000#48 = 0x00000007FFFC#48 ∧ codec 0x30001C000000#48 = 0x000000000004#48 ∧
    codec 0x30FFFFFFFFFF#48 = 0x000001FA0B61#48 := by decide +kernel

theorem test_mod_both_operations :
    codec 0x49AE2BB5A7C3#48 = 0x00AE2B351000#48 ∧ codec 0x46AE2BB5A7C3#48 = 0x002E2BB51000#48 ∧
    codec 0x456E2B35A0FF#48 = 0x00EE2BB51000#48 ∧ codec 0x43AE2BB5A7C3#48 = 0x200000000000#48 := by decide +kernel

theorem test_modRewrite :
    codec 0x40AE2BB5A7C3#48 = 0x002E2BB51000#48 ∧ codec 0x406E2B35A0FF#48 = 0x006E2B351000#48 ∧
    codec 0x40FFFFFFFFFF#48 = 0x007FFFFF1000#48 ∧ codec 0x400000000000#48 = 0x000000001000#48 := by decide +kernel

theorem test_modMute : codec 0x41AE2BB5A7C3#48 = 0x00AE2BB51000#48 := by decide +kernel

theorem test_modUnmute : codec 0x42AE2BB5A7C3#48 = 0x002E2BB51000#48 := by decide +kernel

theorem test_modStereo :
    codec 0x44AE2BB5A7C3#48 = 0x002E2BB51000#48 ∧ codec 0x44AE2B359700#48 = 0x002E2BB51000#48 := by decide +kernel

theorem test_modMono : codec 0x48AE2BB5A7C3#48 = 0x002E2B351000#48 := by decide +kernel

/-! ## The assembler (R75, R76) -/

theorem test_assemble :
    assemble "QUANT 200000" = some (.quant 200000#18) ∧
    assemble "ENC 96600, 0, 1, 1" = some (.enc 96600#18 false true true) ∧
    assemble "DEC 2E2B801000" = some (.dec ⟨0x2E, 0x2B, 0x80, 0x10, 0x00⟩) ∧
    assemble "MOD AE2BB5A7C3, SET, NOP" = some (.mod readA .set .nop) ∧
    assemble "MOD.MONO AE2BB5A7C3" = some (.modMono readA) ∧ assemble "ENC 262144, 0, 1, 1" = none := by decide +kernel

theorem test_asmText :
    asmText (.enc 96600#18 false true true) = "ENC 96600, 0, 1, 1" ∧
    asmText (.mod readA .set .clr) = "MOD AE2BB5A7C3, SET, CLR" := by decide +kernel

/-! ## The host's operations: steps of the programs of 95_test_vectors.md part 3 -/

/-- Program 1, steps 1 to 3. -/
theorem test_tuneTo :
    let t := after (perform (.tuneTo (.mhz (966 / 10))) (withBus ⟨none, false, false⟩ [readA]))
    t.soft = ⟨some 96600, false, false⟩ ∧ t.chip = ⟨⟨0x2E, 0x2B, 0x80, 0x10, 0x00⟩, .settled⟩ ∧
      t.reply = .committed 96600 := by decide +kernel

/-- E2: `tune_to(200.0)` yields 108.0 and `tune_to(10.0)` yields 87.5; a negative and a huge one saturate. -/
theorem test_tuneTo_clamps :
    (after (perform (.tuneTo (.mhz 200)) (withBus ⟨none, false, false⟩ [readA]))).reply = .committed 108000 ∧
    (after (perform (.tuneTo (.mhz 10)) (withBus ⟨none, false, false⟩ [readA]))).reply = .committed 87500 ∧
    (khzOfMHz (-1)).toNat = 0 ∧ (khzOfMHz (349644 / 1000)).toNat = 262143 := by decide +kernel

/-- Program 1, steps 4 and 5: `raw` is what the chip offers; the PLL bits are those last written. -/
theorem test_readStatus :
    let s := { withBus ⟨some 96600, false, false⟩ [⟨0xAE, 0x2B, 0xB5, 0x97, 0x00⟩] with
      chip := ⟨⟨0x2E, 0x2B, 0x80, 0x10, 0x00⟩, .settled⟩ }
    (after (perform .readStatus s)).reply =
      .status ⟨true, true, 9, 96596, false, ⟨0xAE, 0x2B, 0xB5, 0x97, 0x00⟩⟩ := by decide +kernel

/-- Program 2, steps 1 to 3, and steps 4 to 6. -/
theorem test_mute_unmute :
    let t := after (perform .mute (withBus ⟨some 96600, false, false⟩ [⟨0xAE, 0x2B, 0x35, 0x97, 0x00⟩, readA]))
    let u := after (perform .unmute (withBus ⟨some 96600, false, true⟩ [⟨0x2E, 0x2B, 0xB5, 0xA3, 0x00⟩, readA]))
    t.chip.reg = ⟨0xAE, 0x2B, 0x35, 0x10, 0x00⟩ ∧ t.soft = ⟨some 96600, false, true⟩ ∧
    u.chip.reg = ⟨0x2E, 0x2B, 0xB5, 0x10, 0x00⟩ ∧ u.soft = ⟨some 96600, false, false⟩ := by decide +kernel

/-- Program 4, steps 1 to 3: the chip is unmuted while the flag says muted. -/
theorem test_setMono :
    let t := after (perform (.setMono true) (withBus ⟨some 96600, false, true⟩ [⟨0xAE, 0x2B, 0xB5, 0x70, 0x00⟩, readA]))
    t.chip.reg = ⟨0x2E, 0x2B, 0x35, 0x10, 0x00⟩ ∧ t.soft = ⟨some 96600, true, true⟩ := by decide +kernel

/-- Programs 3 and 5: the seeded step near the band end, the saturated step, the step down from a negative seed. -/
theorem test_step :
    (after (perform (.stepTune .up) (withBus ⟨none, false, false⟩ [⟨0x33, 0x95, 0x80, 0x50, 0x00⟩, readA]))).soft.current =
      some 108000 ∧
    (after (perform (.stepTune .up) (withBus ⟨some 108000, false, false⟩ [readA]))).soft.current = some 108000 ∧
    (after (perform (.stepTune .down) (withBus ⟨some 108000, false, false⟩ [readA]))).soft.current = some 107900 ∧
    (after (perform (.stepTune .down) (withBus ⟨none, false, false⟩ [⟨0, 0, 0, 0, 0⟩, readA]))).soft.current =
      some 87500 := by decide +kernel

/-- Program 6, steps 1 and 2, as direct requests of a host: the fault is returned and recorded and no soft state changes; the
request after it starts clean. -/
theorem test_request_fault :
    let t := after (perform (.request 0x20000019A5E1#48) (withBus ⟨some 96600, true, true⟩ []))
    let u := after (perform (.request 0x10000001A5E1#48) t)
    t.rsp = 0x100000000000#48 ∧ t.reply = .codecError .invalidFrequency ∧ t.faults = [.invalidFrequency] ∧
    t.soft = ⟨some 96600, true, true⟩ ∧ u.reply = .response 0x1A5E0#44 ∧ u.faults = [.invalidFrequency] := by decide +kernel

/-- Program 6, step 4: the refusal is returned and not recorded. -/
theorem test_request_refusal :
    let t := after (perform (.request 0x200000217958#48) idle)
    t.rsp = 0x200000000000#48 ∧ t.reply = .codecError .illegalRequest ∧ t.faults = [] := by decide +kernel

/-- A write that fails leaves the soft state, reports the error and leaves the chip's register free. -/
theorem test_busError :
    let s := { withBus ⟨some 96600, false, false⟩ [] with busInputs := [.done readA, .failed .shortWrite ⟨1, 2, 3, 4, 5⟩] }
    let t := after (perform .mute s)
    t.soft = s.soft ∧ t.reply = .busError .shortWrite ∧ t.chip = ⟨⟨1, 2, 3, 4, 5⟩, .unknown⟩ := by decide +kernel

/-- R233: 119 ms after a frequency write, and 49 ms after a modify write, the chip still settles; 1 ms later it is settled. -/
theorem test_settle_delay :
    Standing.wait 119 (.settling (settleMs .frequency)) = .settling 1 ∧
    Standing.wait 120 (.settling (settleMs .frequency)) = .settled ∧
    Standing.wait 49 (.settling (settleMs .modify)) = .settling 1 ∧
    Standing.wait 50 (.settling (settleMs .modify)) = .settled := by decide

/-- A frequency that is no number is refused. -/
theorem test_notFinite : perform (.tuneTo .notFinite) idle = .refused .nonFiniteFrequency := rfl

/-! ## Witnesses: for every statement with hypotheses, values that meet them all; a statement of several clauses has one for
each clause, at a boundary of its range. -/

theorem witness_DecodeOfEncodeIsIdentity : (Instr.mod readA .set .clr).WellFormed ∧ (Instr.modMute readA).WellFormed := by
  decide

theorem witness_EncodeOfDecodeIsIdentity : ∃ w i, decode w = .legal i ∧ w = 0x49AE2BB5A7C3#48 :=
  ⟨_, .mod readA .set .clr, by decide, rfl⟩

theorem witness_StepRunsTheDecodedInstruction : ∃ w i, decode w = .legal i ∧ w = 0x100000030D40#48 :=
  ⟨_, .quant 200000#18, by decide, rfl⟩

theorem witness_InstructionsWriteOnlyTheResponse : ∃ i t, exec i idle = .next t ∧ t.rsp = 0x00000001A5E0#48 :=
  ⟨.quant 200000#18, _, rfl, by decide +kernel⟩

theorem witness_StatusAndErrorWords :
    stField (codec 0x20000019A5E1#48) = 1#4 ∧ stField (codec 0x000000000000#48) = 2#4 := by decide +kernel

/-- One illegal word for each line of the condition, and a legal one beside each. -/
theorem witness_IllegalWordsAreExactlyThoseOfTheRule :
    [0x0FFFFFFFFFFF#48, 0x500000000000#48, 0x430000000000#48, 0x4C0000000000#48, 0x100000040000#48, 0x200000200000#48,
      0x310000000000#48].all (fun w => decide (illegalWord w)) = true ∧
    [0x100000000000#48, 0x4A0000000000#48, 0x400000000000#48, 0x10000003FFFF#48, 0x2000001FFFFF#48,
      0x30FFFFFFFFFF#48].all (fun w => !decide (illegalWord w)) = true := by
  decide +kernel

/-- Both branches, at the largest frequency and at the first reserved bit. -/
theorem witness_QuantWords : op 0x10000003FFFF#48 = 1#4 ∧ (0x10000003FFFF#48).extractLsb' 18 26 = 0#26 ∧
    op 0x100000040000#48 = 1#4 ∧ (0x100000040000#48).extractLsb' 18 26 ≠ 0#26 := by decide

/-- The four branches at the ends of the band and at the first reserved bit. -/
theorem witness_EncWords : op 0x2000001955CC#48 = 2#4 ∧ ((0x2000001955CC#48).extractLsb' 0 18).toNat = 87500 ∧
    op 0x2000001955CB#48 = 2#4 ∧ ((0x2000001955CB#48).extractLsb' 0 18).toNat = 87499 ∧
    ((0x20000019A5E0#48).extractLsb' 0 18).toNat = 108000 ∧ ((0x20000019A5E1#48).extractLsb' 0 18).toNat = 108001 ∧
    op 0x200000200000#48 = 2#4 ∧ (0x200000200000#48).extractLsb' 21 23 ≠ 0#23 := by decide

theorem witness_DecWords : op 0x30FFFFFFFFFF#48 = 3#4 ∧ (0x30FFFFFFFFFF#48).extractLsb' 40 4 = 0#4 ∧
    op 0x310000000000#48 = 3#4 ∧ (0x310000000000#48).extractLsb' 40 4 ≠ 0#4 := by decide

/-- Each value of each operation field. -/
theorem witness_ModWords : op 0x400000000000#48 = 4#4 ∧ op 0x410000000000#48 = 4#4 ∧ op 0x420000000000#48 = 4#4 ∧
    op 0x430000000000#48 = 4#4 ∧ op 0x440000000000#48 = 4#4 ∧ op 0x480000000000#48 = 4#4 ∧ op 0x4C0000000000#48 = 4#4 ∧
    (0x430000000000#48).extractLsb' 40 2 = 3#2 ∧ (0x4C0000000000#48).extractLsb' 42 2 = 3#2 ∧
    (0x440000000000#48).extractLsb' 42 2 = 1#2 ∧ (0x480000000000#48).extractLsb' 42 2 = 2#2 ∧
    (0x410000000000#48).extractLsb' 40 2 = 1#2 := by decide

theorem witness_GridQuantiserLaws : (87549 : Nat) ≤ 87550 ∧ gridQuant 87549 = 87500 ∧ gridQuant 87550 = 87600 := by decide

theorem witness_ResultsFitTheirFields : pllOfKHz 87500 = 10708 ∧ pllOfKHz 108000 = 13211 ∧ khzOfPll 0 = -225 ∧
    khzOfPll 16383 = 133985 ∧ khzOfPll 27 = -4 ∧ khzOfPll 28 = 4 := by decide +kernel

theorem witness_PllRoundTripBounds : khzOfPll (pllOfKHz 87500) = 87495 ∧ khzOfPll (pllOfKHz 108000) = 108000 ∧
    khzOfPll (pllOfKHz 89100) = 89092 := by decide +kernel

/-- Both ends of the band: EncInBandAnswersTheFrame, EncFramesAreWriteFrames, DecOfEncRoundTrip. -/
theorem witness_EncInBandAnswersTheFrame : (87500#18).toNat = 87500 ∧ (108000#18).toNat = 108000 := by decide

/-- Just outside both ends. -/
theorem witness_EncOutOfBandRaises : (87499#18).toNat < 87500 ∧ 108000 < (108001#18).toNat := by decide

/-- Two different frames that differ in ignored bits only, every one of them. -/
theorem witness_DecReadsExactlyTheNamedBits :
    (Frame.toBits ⟨0x2E, 0x2B, 0x00, 0x00, 0x00⟩) &&& 0xBFFF80F000#40 =
      (Frame.toBits ⟨0x6E, 0x2B, 0x7F, 0x0F, 0xFF⟩) &&& 0xBFFF80F000#40 := by decide

theorem witness_DecodedFrequencyMayBeNegative : pllField ⟨0xC0, 0, 0, 0, 0⟩ = 0 ∧
    (pllField ⟨0xFF, 0xFF, 0, 0, 0⟩).toNat = 16383 ∧ (pllField ⟨0x00, 0x1B, 0, 0, 0⟩).toNat = 27 := by decide

/-- A settled chip, one that is settling with 1 ms to go, and one of which nothing is known. -/
theorem witness_ReadReturnsTheSettledPll :
    let s := withBus ⟨none, false, false⟩ [readA]
    busAnswer s = .done readA ∧ s.chip.standing = .unknown ∧
    busAnswer { s with chip := ⟨readA, .settled⟩ } = .done readA ∧
    (Chip.mk readA (.settling 1)).standing ≠ .settled ∧ (Chip.mk readA .settled).standing = .settled := by decide

/-- A write that succeeds and one that fails; for each kind, the longest wait that is too short and the shortest that is not,
in one piece and in two. -/
theorem witness_WriteThenSettle :
    119 < settleMs .frequency ∧ settleMs .frequency ≤ 120 ∧ 49 < settleMs .modify ∧ settleMs .modify ≤ 50 ∧
    100 + 19 < settleMs .frequency ∧ settleMs .frequency ≤ 100 + 20 ∧
    busAnswer (withBus ⟨none, false, false⟩ [readA]) = .done readA ∧
    busAnswer { idle with busInputs := [.failed .addressNack readA] } = .failed .addressNack readA := by decide

theorem witness_TuneToCommitsTheClampedFrequency :
    busAnswer (withBus ⟨none, false, true⟩ [readA]) = .done readA ∧
    busAnswer { idle with busInputs := [.failed .shortWrite readA] } = .failed .shortWrite readA := by decide

/-- At both ends of the band, in both directions. -/
theorem witness_StepMovesAndSaturates :
    let lo := withBus ⟨some 87500, false, false⟩ [readA]
    let hi := withBus ⟨some 108000, true, true⟩ [readA]
    lo.soft.current = some 87500 ∧ lo.soft.onGrid = true ∧ busAnswer lo = .done readA ∧
    hi.soft.current = some 108000 ∧ hi.soft.onGrid = true ∧ busAnswer hi = .done readA := by decide

/-- A negative seed, and one in the band: StepSeedsFromAStatusRead. -/
theorem witness_StepSeedsFromAStatusRead :
    let s := withBus ⟨none, false, false⟩ [⟨0, 0, 0, 0, 0⟩, readA]
    let t := withBus ⟨none, false, false⟩ [⟨0x33, 0x95, 0x80, 0x50, 0x00⟩, readA]
    s.soft.current = none ∧ s.busInputs = .done ⟨0, 0, 0, 0, 0⟩ :: .done readA :: [] ∧
    t.soft.current = none ∧ t.busInputs = .done ⟨0x33, 0x95, 0x80, 0x50, 0x00⟩ :: .done readA :: [] := by decide

theorem witness_ModifyWritesSetTheirFlag :
    (withBus ⟨none, false, false⟩ [readA, readA]).busInputs = .done readA :: .done readA :: [] := by decide

theorem witness_ReadStatusMergesTheSoftMute :
    busAnswer (withBus ⟨none, false, true⟩ [readA]) = .done readA ∧
    busAnswer { idle with busInputs := [.failed .otherFailure readA] } = .failed .otherFailure readA := by decide

/-- Each of the six operations. -/
theorem witness_BusErrorStopsTheOperation :
    isOperation (.tuneTo (.mhz 0)) = true ∧ isOperation (.stepTune .up) = true ∧ isOperation .mute = true ∧
    isOperation .unmute = true ∧ isOperation (.setMono true) = true ∧ isOperation .readStatus = true ∧
    busAnswer { idle with busInputs := [.failed .deviceMissing readA] } = .failed .deviceMissing readA := by decide

/-- The second transaction fails. -/
theorem witness_NoSoftUpdateOnBusError :
    ∃ s t, perform .mute s = .next t ∧ t.reply = .busError .shortWrite :=
  ⟨{ idle with busInputs := [.done readA, .failed .shortWrite readA] }, _, rfl, by decide +kernel⟩

/-- Each field changes under its own operation. -/
theorem witness_SoftStateTransitions :
    (∃ t, perform (.stepTune .up) (withBus ⟨some 87500, false, false⟩ [readA]) = .next t ∧
      t.soft = ⟨some 87600, false, false⟩) ∧
    (∃ t, perform .unmute (withBus ⟨none, false, true⟩ [readA, readA]) = .next t ∧ t.soft = ⟨none, false, false⟩) ∧
    (∃ t, perform (.setMono true) (withBus ⟨none, false, false⟩ [readA, readA]) = .next t ∧
      t.soft = ⟨none, true, false⟩) :=
  ⟨⟨_, rfl, by decide +kernel⟩, ⟨_, rfl, by decide +kernel⟩, ⟨_, rfl, by decide +kernel⟩⟩

/-- An operation, and a word for each status a direct request can be answered with. -/
theorem witness_OperationsNeverSeeACodecError :
    (isOperation .readStatus = true ∧ ∃ t, perform .readStatus (withBus ⟨none, false, false⟩ [readA]) = .next t) ∧
    stField (codec 0x10000001A5E1#48) = 0#4 ∧ stField (codec 0x20000019A5E1#48) = 1#4 ∧
    stField (codec 0x200000217958#48) = 2#4 :=
  ⟨⟨rfl, _, rfl⟩, by decide +kernel, by decide +kernel, by decide +kernel⟩

theorem witness_OperationsWriteOnlyCodecFrames :
    HostAction.whole .mute = true ∧ ∃ t, perform .mute (withBus ⟨none, false, false⟩ [readA, readA]) = .next t ∧
      t.wire.length = 2 :=
  ⟨rfl, _, rfl, by decide +kernel⟩

/-- The chip is muted and so is the flag; both operations that tune. -/
theorem witness_TuningUnmutesTheChip :
    let s := { withBus ⟨some 96600, true, true⟩ [readA] with chip := ⟨readA, .settled⟩ }
    (∃ t, perform (.stepTune .down) s = .next t ∧ t.reply = .committed 96500) ∧
    (after (perform (.tuneTo (.mhz 100)) s)).reply = .committed 100000 :=
  ⟨⟨_, rfl, by decide +kernel⟩, by decide +kernel⟩

theorem witness_SetMonoUnmutesTheChip :
    ∃ t, perform (.setMono false) (withBus ⟨some 96600, true, true⟩ [readA, readA]) = .next t ∧ t.reply = .done :=
  ⟨_, rfl, by decide +kernel⟩

theorem witness_MuteCopiesStereoDetected :
    (∃ t, perform (if true then .mute else .unmute) (withBus ⟨none, false, false⟩ [readA, readA]) = .next t ∧
      t.reply = .done) ∧
    (∃ t, perform (if false then .mute else .unmute) (withBus ⟨none, false, false⟩ [readA, readA]) = .next t ∧
      t.reply = .done) :=
  ⟨⟨_, rfl, by decide +kernel⟩, ⟨_, rfl, by decide +kernel⟩⟩

theorem witness_MuteUnmutePreserveFrequency :
    let s := { withBus ⟨none, false, true⟩ [readA, readA, readA, readA, readA, readA] with
      agenda := [.tuneTo (.mhz (966 / 10)), .mute, .unmute, .readStatus] }
    s.req = none ∧ s.agenda = [.tuneTo (.mhz (966 / 10)), .mute, .unmute, .readStatus] ∧
    s.busInputs = .done readA :: .done readA :: .done readA :: .done readA :: .done readA :: .done readA :: [] :=
  ⟨rfl, rfl, rfl⟩

theorem witness_MonoTogglingKeepsFrequency :
    let s := { withBus ⟨none, false, true⟩ [readA, readA, readA, readA] with
      agenda := [.tuneTo (.mhz (966 / 10)), .setMono true, .readStatus] }
    s.req = none ∧ s.agenda = [.tuneTo (.mhz (966 / 10)), .setMono true, .readStatus] ∧
    s.busInputs = .done readA :: .done readA :: .done readA :: .done readA :: [] :=
  ⟨rfl, rfl, rfl⟩

theorem witness_TuneToCallsAreWholeTransactions :
    let xs : List Rat := [100, 88]
    let s := { withBus ⟨none, false, false⟩ [readA, readA] with agenda := xs.map fun x => .tuneTo (.mhz x) }
    s.req = none ∧ s.agenda = xs.map (fun x => .tuneTo (.mhz x)) ∧ s.busInputs.all succeeds = true ∧
    xs.length ≤ s.busInputs.length :=
  ⟨rfl, rfl, rfl, by decide⟩

/-- The ends of the range a request can express, and one outside each. -/
theorem witness_HostConversionIsOneRounding :
    (saturateKHz (-1)).toNat = 0 ∧ (saturateKHz 0).toNat = 0 ∧ (saturateKHz 262143).toNat = 262143 ∧
    (saturateKHz 262144).toNat = 262143 := by decide +kernel

/-- A safe state whose chip is settled, about to mute. -/
theorem witness_SafeStatesStaySafe :
    let s := { withBus ⟨some 108000, false, false⟩ [readA, readA] with
      agenda := [.mute], chip := ⟨⟨0x33, 0x9B, 0x80, 0x10, 0x00⟩, .settled⟩ }
    s.safe = true ∧ ∃ t, step s = .next t ∧ t.soft.muted = true :=
  ⟨by decide, _, rfl, by decide +kernel⟩

theorem witness_CurrentFrequencyStaysOnTheGrid :
    let s := { withBus ⟨some 87500, false, false⟩ [readA] with agenda := [.stepTune .down] }
    s.soft.onGrid = true ∧ ∃ t, step s = .next t ∧ t.soft.current = some 87500 :=
  ⟨by decide, _, rfl, by decide +kernel⟩

/-- A step that is refused, and why. -/
theorem witness_EveryStepGoesOnButForNonFinite :
    step { idle with agenda := [.tuneTo .notFinite] } = .refused .nonFiniteFrequency := rfl

end Sys2Proof.Tests
end

section
/-! PROOFS. The scope of a step and of an instruction (00_scope.md R4, R12). -/

namespace Sys2Proof.Machine

/-- With no request presented, a step takes the first action off the agenda and performs it (R4). -/
theorem step_hostAction {s : State} {a : HostAction} {rest : List HostAction} (hreq : s.req = none)
    (hagenda : s.agenda = a :: rest) : step s = perform a { s with agenda := rest } := by
  simp [step, hreq, hagenda]

/-- With no request presented and nothing left to do, a step changes nothing (R204; log 6). -/
theorem step_idle {s : State} (hreq : s.req = none) (hagenda : s.agenda = []) : step s = .next s := by
  simp [step, hreq, hagenda]

/-- An instruction that goes on has driven a response word and done nothing else (R12, R20). -/
theorem exec_next_drives {i : Instr} {s t : State} (h : exec i s = .next t) : ∃ v, t = driveRsp v s := by
  obtain ⟨v, hv⟩ := exec_drives i
  have hnext : Host.Outcome.next t = .next (driveRsp v s) := h.symm.trans (hv s)
  exact ⟨v, Host.Outcome.next.inj hnext⟩

end Sys2Proof.Machine

namespace Sys2Proof.Spec

open Sys2Proof.Machine

/-- Settles O9: a step without a request is the host's next action, or idle. -/
theorem stepWithoutRequestIsTheHosts : Obligations.StepWithoutRequestIsTheHosts := by
  intro s a rest
  exact ⟨step_hostAction rfl rfl, step_idle rfl rfl⟩

/-- Settles O11: the next state of an instruction is its state with a response driven, and driving a response leaves every
field but RSP alone. -/
theorem instructionsWriteOnlyTheResponse : Obligations.InstructionsWriteOnlyTheResponse := by
  intro i s t h
  obtain ⟨v, rfl⟩ := exec_next_drives h
  exact ⟨driveRsp_req v s, driveRsp_chip v s, driveRsp_soft v s, driveRsp_reply v s, driveRsp_faults v s,
    driveRsp_agenda v s, driveRsp_busInputs v s, driveRsp_busCount v s, driveRsp_wire v s⟩

end Sys2Proof.Spec
end

section
/-! PROOFS. Decoding what was encoded (30_encoding.md R60, R62 to R66, R76, R78): what the decoder finds in each field of an
encoded word, and so that the codec answers the word of an instruction by running that instruction. -/

namespace Sys2Proof

/-- The word of a MOD is one byte, the opcode and both mutators, above the frame (R65). -/
theorem encode_mod_eq_append {m s : MutOp} {b : BitVec 8} (hb : 0x4#4 ++ s.toBits ++ m.toBits = b) (f : Frame) :
    encode (.mod f m s) = b ++ f.toBits := by
  rw [← hb]
  rfl

/-- A pseudo-instruction and its expansion are the same word (R76). -/
theorem encode_expand (i : Instr) : encode i.expand = encode i := by
  cases i with
  | quant f => rfl
  | enc f m s d => rfl
  | dec f => rfl
  | mod f m s => rfl
  | modRewrite f => exact encode_mod_eq_append rfl f
  | modMute f => exact encode_mod_eq_append rfl f
  | modUnmute f => exact encode_mod_eq_append rfl f
  | modStereo f => exact encode_mod_eq_append rfl f
  | modMono f => exact encode_mod_eq_append rfl f

/-- `REQ[47:44]` of an encoded word is the opcode of its instruction (R60). -/
@[simp] theorem extractLsb'_op_encode (i : Instr) : (encode i).extractLsb' 44 4 = i.opcode := by
  cases i <;>
    simp (disch := omega) only [encode, Instr.opcode, BitVec.extractLsb'_append_eq_of_le] <;> rfl

@[simp] theorem freqField_encode_quant (f : FreqKHz) : freqField (encode (.quant f)) = f :=
  BitVec.extractLsb'_append_eq_right

@[simp] theorem freqField_encode_enc (f : FreqKHz) (m s d : Bool) : freqField (encode (.enc f m s d)) = f :=
  BitVec.extractLsb'_append_eq_right

@[simp] theorem frameField_encode_dec (f : Frame) : frameField (encode (.dec f)) = f :=
  (congrArg Frame.ofBits BitVec.extractLsb'_append_eq_right).trans f.ofBits_toBits

@[simp] theorem frameField_encode_mod (f : Frame) (m s : MutOp) : frameField (encode (.mod f m s)) = f :=
  (congrArg Frame.ofBits BitVec.extractLsb'_append_eq_right).trans f.ofBits_toBits

/-- The reserved field of format Q is zero (R62). -/
@[simp] theorem extractLsb'_reserved_encode_quant (f : FreqKHz) : (encode (.quant f)).extractLsb' 18 26 = 0#26 := by
  simp (disch := omega) only [encode, BitVec.extractLsb'_append_eq_of_le, BitVec.extractLsb'_append_eq_of_add_le]
  simp

/-- The reserved field of format E is zero (R63). -/
@[simp] theorem extractLsb'_reserved_encode_enc (f : FreqKHz) (m s d : Bool) :
    (encode (.enc f m s d)).extractLsb' 21 23 = 0#23 := by
  simp (disch := omega) only [encode, BitVec.extractLsb'_append_eq_of_le, BitVec.extractLsb'_append_eq_of_add_le]
  simp

/-- The reserved field of format D is zero (R64). -/
@[simp] theorem extractLsb'_reserved_encode_dec (f : Frame) : (encode (.dec f)).extractLsb' 40 4 = 0#4 := by
  simp (disch := omega) only [encode, BitVec.extractLsb'_append_eq_of_le, BitVec.extractLsb'_append_eq_of_add_le]
  simp

@[simp] theorem extractLsb'_muteOp_encode_mod (f : Frame) (m s : MutOp) :
    (encode (.mod f m s)).extractLsb' 40 2 = m.toBits := by
  simp (disch := omega) only [encode, BitVec.extractLsb'_append_eq_of_le, BitVec.extractLsb'_append_eq_of_add_le]
  simp

@[simp] theorem extractLsb'_stereoOp_encode_mod (f : Frame) (m s : MutOp) :
    (encode (.mod f m s)).extractLsb' 42 2 = s.toBits := by
  simp (disch := omega) only [encode, BitVec.extractLsb'_append_eq_of_le, BitVec.extractLsb'_append_eq_of_add_le]
  simp

/-- The three flags of format E stand above the frequency (R63). -/
theorem getLsbD_flags_encode_enc (f : FreqKHz) (m s d : Bool) :
    (encode (.enc f m s d)).getLsbD 18 = m ∧ (encode (.enc f m s d)).getLsbD 19 = s ∧
      (encode (.enc f m s d)).getLsbD 20 = d := by
  simp only [encode_enc_getLsbD]
  simp

theorem decodeCore_encode_mod (f : Frame) (m s : MutOp) : decodeCore (encode (.mod f m s)) = .legal (.mod f m s) := by
  simp [decodeCore, Instr.opcode]

/-- R78's decoder reads back each of the four instructions of R60, and a pseudo-instruction as what it stands for. -/
theorem decodeCore_encode (i : Instr) : decodeCore (encode i) = .legal i.expand := by
  rw [← encode_expand]
  cases i with
  | quant f => simp [decodeCore, Instr.expand, Instr.opcode]
  | enc f m s d =>
    obtain ⟨hm, hs, hd⟩ := getLsbD_flags_encode_enc f m s d
    simp only [decodeCore, Instr.expand, hm, hs, hd]
    simp [Instr.opcode]
  | dec f => simp [decodeCore, Instr.expand, Instr.opcode]
  | _ => exact decodeCore_encode_mod _ _ _

/-- The machine's decoder reads back an instruction under the name R76 gives its expansion (log 5). -/
theorem decode_encode (i : Instr) : decode (encode i) = .legal i.expand.named := by
  rw [decode, decodeCore_encode]

end Sys2Proof

namespace Sys2Proof.Machine

/-- The codec runs the instruction a word decodes to (R20, R242). -/
theorem answer_legal {w : ReqWord} {i : Instr} (h : decode w = .legal i) (s : State) : answer w s = exec i s := by
  simp [answer, h]

/-- The codec answers the word of an instruction by running that instruction: what the laws of the host's operations ask for. -/
theorem answer_encode (i : Instr) (s : State) : answer (encode i) s = exec i s := by
  rw [answer_legal (decode_encode i), exec_named, exec_expand]

end Sys2Proof.Machine
end

section
/-! PROOFS. A request at the port (10_state.md R20, R22, R242). -/

namespace Sys2Proof.Machine

/-- The codec drives the response word of R20 in every state, and does nothing else. -/
theorem answer_eq_driveRsp_codec (w : ReqWord) (s : State) : answer w s = .next (driveRsp (codec w) s) := by
  obtain ⟨v, hv⟩ := answer_drives w
  have hcodec : codec w = v := by rw [codec, hv]; exact driveRsp_rsp v _
  rw [hcodec, hv]

/-- A request at the port is answered by the codec alone, the request being taken. -/
theorem step_request {s : State} {w : ReqWord} (hreq : s.req = some w) : step s = answer w { s with req := none } := by
  simp [step, hreq]

end Sys2Proof.Machine

namespace Sys2Proof.Spec

open Sys2Proof.Machine

theorem step_presented (s : State) (w : ReqWord) : step (presented s w) = answer w { s with req := none } :=
  step_request rfl

/-- A response driven when the request has been taken is a request answered. -/
theorem driveRsp_taken (v : RspWord) (s : State) : driveRsp v { s with req := none } = answered s v := (rfl)

/-- Settles O10: the codec drives the same word in every state. -/
theorem responseIsAFunctionOfTheRequest : Obligations.ResponseIsAFunctionOfTheRequest := by
  intro w s
  rw [step_presented, answer_eq_driveRsp_codec, driveRsp_taken]

/-- Settles O8: the codec's answer to a word that decodes is the meaning of the instruction. -/
theorem stepRunsTheDecodedInstruction : Obligations.StepRunsTheDecodedInstruction := by
  intro s w i h
  rw [step_presented, answer_legal h]

end Sys2Proof.Spec
end

section
/-! PROOFS. What a host action and a step can do to the soft state, the chip and the agenda, said once (10_state.md R31, R32;
44_host_macros.md R180, R191), and the invariants and the bus-error rule that follow. -/

namespace Sys2Proof.Machine

open Sys2Proof.Spec

/-- The ways a host action that goes on can have treated the soft state and the chip, as far as the invariants and the rule on
bus errors speak of them (`perform_effect` says that there is no other). -/
inductive ActionEffect (a : HostAction) (s t : State) : Prop
  /-- it wrote nothing: a read, a request, a failed read, a reset of the codec -/
  | kept (soft : t.soft = s.soft) (chip : t.chip = s.chip)
  /-- its write failed, or the chip was powered on: nothing is promised of the next read -/
  | chipLost (soft : t.soft = s.soft) (standing : t.chip.standing = .unknown)
  /-- it was a bare write or a bare wait -/
  | bare (notWhole : a.whole = false) (soft : t.soft = s.soft)
  /-- it tuned: the frame of ENC for a grid frequency is settled in the chip, and only then is the frequency stored -/
  | tuned (f : Nat) (stereo : Bool) (current : t.soft.current = some (gridQuant f))
      (chip : t.chip = { reg := encodeFrame (gridQuant f) false stereo true, standing := .settled })
      (reply : t.reply = .committed (gridQuant f))
  /-- it was a modify-write: a frame of MOD is settled in the chip, and the stored frequency is kept -/
  | modified (f : Frame) (muteOp stereoOp : MutOp) (current : t.soft.current = s.soft.current)
      (chip : t.chip = { reg := modifyFrame f muteOp stereoOp, standing := .settled }) (reply : t.reply = .done)
  /-- it was a restart of the host (R222) -/
  | restarted (current : t.soft.current = none) (chip : t.chip = s.chip) (reply : t.reply = .nothing)

/-- What an action does after a part that kept the soft state and the chip, it does as a whole. -/
theorem ActionEffect.after_kept {a : HostAction} {s u t : State} (h : ActionEffect a u t)
    (hsoft : u.soft = s.soft) (hchip : u.chip = s.chip) : ActionEffect a s t := by
  cases h with
  | kept soft chip => exact .kept (soft.trans hsoft) (chip.trans hchip)
  | chipLost soft standing => exact .chipLost (soft.trans hsoft) standing
  | bare notWhole soft => exact .bare notWhole (soft.trans hsoft)
  | tuned f stereo current chip reply => exact .tuned f stereo current chip reply
  | modified f m st current chip reply => exact .modified f m st (current.trans (congrArg _ hsoft)) chip reply
  | restarted current chip reply => exact .restarted current (chip.trans hchip) reply

section
variable {a : HostAction} {s t : State}

theorem writeTune_effect {f : FreqKHz} (h : writeTune f s = .next t) : t.agenda = s.agenda ∧ ActionEffect a s t := by
  obtain ⟨raw, -, e⟩ | ⟨c, left, v, -, e⟩ := writeTune_cases answer_encode f s <;> cases e.symm.trans h
  · exact ⟨tuned_agenda _ _, .tuned f.toNat (!s.soft.forcedMono) (by simp) (tuned_chip _ _) (tuned_reply _ _)⟩
  · exact ⟨by simp, .chipLost (by simp) rfl⟩

theorem hostStep_effect {dir : Direction} (h : hostStep dir s = .next t) : t.agenda = s.agenda ∧ ActionEffect a s t := by
  obtain ⟨cur, -, e⟩ | ⟨c, left, -, -, e⟩ | ⟨raw, -, -, e⟩ := hostStep_cases answer_encode dir s
  · exact writeTune_effect (e.symm.trans h)
  · cases e.symm.trans h
    exact ⟨by simp, .kept (by simp) (by simp)⟩
  · rw [respondOk_eq] at e
    obtain ⟨hagenda, heffect⟩ := writeTune_effect (a := a) (e.symm.trans h)
    exact ⟨hagenda.trans (by simp), heffect.after_kept (by simp) (by simp)⟩

theorem modifyWrite_effect {m st : MutOp} {update : SoftState → SoftState}
    (hupdate : (update s.soft).current = s.soft.current) (h : modifyWrite m st update s = .next t) :
    t.agenda = s.agenda ∧ ActionEffect a s t := by
  obtain ⟨c, left, -, e⟩ | ⟨raw, c, left, v, -, -, e⟩ | ⟨raw, raw', -, -, e⟩ :=
    modifyWrite_cases answer_encode m st update s <;> cases e.symm.trans h
  · exact ⟨by simp, .kept (by simp) (by simp)⟩
  · exact ⟨by simp, .chipLost (by simp) rfl⟩
  · exact ⟨by simp, .modified _ m st (by simpa using hupdate) (wrote_chip _ _ _ _) (wrote_reply _ _ _ _)⟩

theorem hostReadStatus_effect (h : hostReadStatus s = .next t) : t.agenda = s.agenda ∧ ActionEffect a s t := by
  obtain ⟨c, left, -, e⟩ | ⟨raw, -, e⟩ := hostReadStatus_cases answer_encode s <;> cases e.symm.trans h
  · exact ⟨by simp, .kept (by simp) (by simp)⟩
  · rw [respondOk_eq]
    exact ⟨by simp, .kept (by simp) (by simp)⟩

theorem hostRequest_effect {w : ReqWord} (h : hostRequest w s = .next t) : t.agenda = s.agenda ∧ ActionEffect a s t := by
  obtain ⟨p, e⟩ | ⟨st, p, -, e⟩ := hostRequest_cases w s <;> cases e.symm.trans h <;>
    exact ⟨by simp, .kept (by simp) (by simp)⟩

theorem performBusRead_effect (h : perform .busRead s = .next t) : t.agenda = s.agenda ∧ ActionEffect a s t := by
  cases ha : busAnswer s with
  | done raw =>
    simp only [perform, busRead_done ha] at h
    cases h
    exact ⟨by simp, .kept (by simp) (by simp)⟩
  | failed c left =>
    simp only [perform, busRead_failed ha] at h
    cases h
    exact ⟨by simp, .kept (by simp) (by simp)⟩

theorem performBusWrite_effect {f : Frame} {kind : WriteKind} (h : perform (.busWrite f kind) s = .next t) :
    t.agenda = s.agenda ∧ ActionEffect (.busWrite f kind) s t := by
  cases ha : busAnswer s with
  | done raw =>
    simp only [perform, busWrite_done ha] at h
    cases h
    exact ⟨by simp, .bare rfl (by simp)⟩
  | failed c left =>
    simp only [perform, busWrite_failed ha] at h
    cases h
    exact ⟨by simp, .bare rfl (by simp)⟩

/-- All a host action that goes on can do to the agenda, the soft state and the chip. -/
theorem perform_effect (h : perform a s = .next t) : t.agenda = s.agenda ∧ ActionEffect a s t := by
  cases a with
  | request w => exact hostRequest_effect h
  | busRead => exact performBusRead_effect h
  | busWrite f kind => exact performBusWrite_effect h
  | settle ms =>
    cases h
    exact ⟨settle_agenda ms s, .bare rfl (settle_soft ms s)⟩
  | tuneTo freq =>
    cases freq with
    | mhz x => exact writeTune_effect h
    | notFinite => cases h
  | stepTune dir => exact hostStep_effect h
  | mute => exact modifyWrite_effect rfl h
  | unmute => exact modifyWrite_effect rfl h
  | setMono flag => exact modifyWrite_effect rfl h
  | readStatus => exact hostReadStatus_effect h
  | restart =>
    cases h
    exact ⟨rfl, .restarted rfl rfl rfl⟩
  | chipPowerOn =>
    cases h
    exact ⟨rfl, .chipLost rfl rfl⟩
  | codecReset =>
    cases h
    exact ⟨rfl, .kept rfl rfl⟩

/-- All a step that goes on can do: nothing to the soft state, the chip and the agenda, or the first action. -/
theorem step_next_cases (h : step s = .next t) :
    (t.soft = s.soft ∧ t.chip = s.chip ∧ t.agenda = s.agenda) ∨
    (∃ a rest, s.agenda = a :: rest ∧ t.agenda = rest ∧ ActionEffect a s t) := by
  cases hreq : s.req with
  | some w =>
    rw [step_request hreq, answer_eq_driveRsp_codec] at h
    cases h
    exact .inl ⟨by simp, by simp, by simp⟩
  | none =>
    cases hagenda : s.agenda with
    | nil =>
      cases (step_idle hreq hagenda).symm.trans h
      exact .inl ⟨rfl, rfl, hagenda⟩
    | cons a rest =>
      obtain ⟨hrest, heffect⟩ := perform_effect ((step_hostAction hreq hagenda).symm.trans h)
      exact .inr ⟨a, rest, rfl, hrest, heffect.after_kept rfl rfl⟩

end

/-! The two invariants, each kept by every effect an action can have. -/

/-- The grid invariant is about the stored frequency alone. -/
theorem SoftState.onGrid_congr {x y : SoftState} (h : x.current = y.current) : x.onGrid = y.onGrid := by
  rw [SoftState.onGrid, SoftState.onGrid, h]

/-- What QUANT makes is on the grid and in the band (R31, R100). -/
theorem SoftState.onGrid_of_gridQuant {x : SoftState} {f : Nat} (h : x.current = some (gridQuant f)) :
    x.onGrid = true := by
  have hmod : gridQuant f % Config.grid = 0 := Nat.mul_mod_right _ _
  simp [SoftState.onGrid, h, inBand_gridQuant, hmod]

/-- A frame is a write frame when its byte3 is clear outside bit 4 and its byte4 is zero (R124, R164). -/
theorem writeFrameOk_of_bytes {f : Frame} (h3 : f.byte3 &&& 0xEF#8 = 0#8) (h4 : f.byte4 = 0#8) :
    writeFrameOk f = true := by
  have hmask : f.toBits &&& 0xEFFF#40 =
      (f.byte0 &&& 0#8) ++ (f.byte1 &&& 0#8) ++ (f.byte2 &&& 0#8) ++ (f.byte3 &&& 0xEF#8) ++ (f.byte4 &&& 0xFF#8) := by
    simp only [← BitVec.and_append]
    rfl
  simp [writeFrameOk, hmask, h3, h4]

theorem writeFrameOk_encodeFrame (f : Nat) (m st d : Bool) : writeFrameOk (encodeFrame f m st d) = true :=
  writeFrameOk_of_bytes (show deemphByte d &&& 0xEF#8 = 0#8 by revert d; decide) rfl

theorem writeFrameOk_modifyFrame (f : Frame) (m st : MutOp) : writeFrameOk (modifyFrame f m st) = true :=
  writeFrameOk_of_bytes (show Config.deemph50 &&& 0xEF#8 = 0#8 by decide) rfl

theorem ActionEffect.keeps_onGrid {a : HostAction} {s t : State} (h : ActionEffect a s t) (hs : s.soft.onGrid = true) :
    t.soft.onGrid = true := by
  cases h with
  | kept soft _ => rwa [soft]
  | chipLost soft _ => rwa [soft]
  | bare _ soft => rwa [soft]
  | tuned f stereo current _ _ => exact SoftState.onGrid_of_gridQuant current
  | modified f m st current _ _ => rwa [SoftState.onGrid_congr current]
  | restarted current _ _ => rw [SoftState.onGrid, current]

theorem ActionEffect.keeps_atRest {a : HostAction} {s t : State} (h : ActionEffect a s t) (ha : a.whole = true)
    (hs : s.chip.atRest = true) : t.chip.atRest = true := by
  cases h with
  | kept _ chip => rwa [chip]
  | chipLost _ standing => rw [Chip.atRest, standing]
  | bare notWhole _ => simp [notWhole] at ha
  | tuned f stereo _ chip _ => rw [chip]; exact writeFrameOk_encodeFrame _ _ _ _
  | modified f m st _ chip _ => rw [chip]; exact writeFrameOk_modifyFrame _ _ _
  | restarted _ chip _ => rwa [chip]

theorem State.safe_iff (s : State) :
    s.safe = true ↔ (∀ a ∈ s.agenda, a.whole = true) ∧ s.soft.onGrid = true ∧ s.chip.atRest = true := by
  simp [State.safe, and_assoc]

end Sys2Proof.Machine

namespace Sys2Proof.Spec

open Sys2Proof.Machine

/-- Settles O59: an answered request changes nothing the invariant speaks of, and every effect a whole operation can have
keeps the grid and leaves the chip at rest. -/
theorem safeStatesStaySafe : Obligations.SafeStatesStaySafe := by
  intro s t hsafe hstep
  rw [State.safe_iff] at hsafe ⊢
  obtain ⟨hwhole, hgrid, hrest⟩ := hsafe
  obtain ⟨hsoft, hchip, hagenda⟩ | ⟨a, rest, hs, ht, heffect⟩ := step_next_cases hstep
  · rw [hsoft, hchip, hagenda]
    exact ⟨hwhole, hgrid, hrest⟩
  · rw [hs, List.forall_mem_cons] at hwhole
    obtain ⟨ha, hwhole⟩ := hwhole
    rw [ht]
    exact ⟨hwhole, heffect.keeps_onGrid hgrid, heffect.keeps_atRest ha hrest⟩

/-- Settles O46: the effects that change the soft state are those whose reply is no bus error. -/
theorem noSoftUpdateOnBusError : Obligations.NoSoftUpdateOnBusError := by
  intro a c s t hperform herror
  obtain ⟨-, heffect⟩ := perform_effect hperform
  cases heffect with
  | kept soft _ => exact soft
  | chipLost soft _ => exact soft
  | bare _ soft => exact soft
  | tuned f stereo _ _ reply => cases reply.symm.trans herror
  | modified f m st _ _ reply => cases reply.symm.trans herror
  | restarted _ _ reply => cases reply.symm.trans herror

/-- Settles O60: a step keeps the stored frequency, clears it, or stores what the grid quantiser made. -/
theorem currentFrequencyStaysOnTheGrid : Obligations.CurrentFrequencyStaysOnTheGrid := by
  intro s t hgrid hstep
  obtain ⟨hsoft, -, -⟩ | ⟨a, rest, -, -, heffect⟩ := step_next_cases hstep
  · rwa [hsoft]
  · exact heffect.keeps_onGrid hgrid

end Sys2Proof.Spec
end

section
/-! PROOFS. The state after reset, and what the three resets leave (10_state.md R34, 70_reset_and_hazards.md R220 to R223). -/

namespace Sys2Proof.Machine

/-- Of a chip of which nothing is known, every bit of a read is free (R51, U2). -/
theorem readFrame_unknown {c : Chip} (h : c.standing = .unknown) (raw : Frame) : readFrame c raw = raw :=
  readFrame_free (by simp [h]) raw

end Sys2Proof.Machine

namespace Sys2Proof.Spec

open Sys2Proof.Machine

/-- Settles O58: nothing is on the agenda, no frequency is stored, nothing is known of the chip. -/
theorem resetIsSafe : Obligations.ResetIsSafe :=
  (State.safe_iff State.reset).2 ⟨fun _ h => absurd h List.not_mem_nil, rfl, rfl⟩

/-- Settles O37: the chip is unknown at reset and after a power-on, so a read of it is free; the other fields are read off
the resets. -/
theorem resetsLeaveTheDocumentedState : Obligations.ResetsLeaveTheDocumentedState := by
  refine ⟨⟨rfl, rfl, readFrame_unknown rfl⟩, fun s => ⟨rfl, ?restart, ?powerOn⟩⟩
  case restart => exact ⟨_, rfl, rfl, rfl, rfl⟩
  case powerOn => exact ⟨_, rfl, rfl, rfl, readFrame_unknown rfl⟩

end Sys2Proof.Spec
end

section
/-! PROOFS. The bus and the chip: the bits of a read of a settled chip, and what a bare read, a bare write and the waits
after it leave (20_memory.md R45, R49, R51, R52; 70_reset_and_hazards.md R232, R233). -/

namespace Sys2Proof.Machine

/-! Putting a PLL word into a frame (R72). -/

@[simp] theorem pllField_withPll (f : Frame) (p : PllWord) : pllField (withPll f p) = p := by
  have hlow : (withPll f p).byte0.extractLsb' 0 6 = p.extractLsb' 8 6 := BitVec.extractLsb'_append_eq_right
  rw [pllField, hlow]
  exact BitVec.extractLsb'_append_extractLsb' (w := 6) (len := 8)

/-- A byte made of two high and six low bits, under the mask of the two high ones. -/
theorem highTwo_append_and (high : BitVec 2) (low : BitVec 6) :
    (high ++ low : BitVec 8) &&& 0xC0#8 = high ++ 0#6 := by
  have hmask : (0xC0#8 : BitVec 8) = BitVec.allOnes 2 ++ 0#6 := by decide
  rw [hmask, BitVec.and_append, BitVec.and_allOnes, BitVec.and_zero]

theorem withPll_byte0_highTwo (f : Frame) (p : PllWord) : (withPll f p).byte0 &&& 0xC0#8 = f.byte0 &&& 0xC0#8 := by
  have hsplit : f.byte0.extractLsb' 6 2 ++ f.byte0.extractLsb' 0 6 = f.byte0 :=
    BitVec.extractLsb'_append_extractLsb' (w := 2) (len := 6)
  calc (withPll f p).byte0 &&& 0xC0#8
      = f.byte0.extractLsb' 6 2 ++ 0#6 := highTwo_append_and _ _
    _ = (f.byte0.extractLsb' 6 2 ++ f.byte0.extractLsb' 0 6) &&& 0xC0#8 := (highTwo_append_and _ _).symm
    _ = f.byte0 &&& 0xC0#8 := by rw [hsplit]

/-- The mask of the bits outside the PLL word, byte by byte. -/
theorem toBits_and_outsidePll (f : Frame) :
    f.toBits &&& 0xC000FFFFFF#40 =
      (f.byte0 &&& 0xC0#8) ++ (f.byte1 &&& 0#8) ++ (f.byte2 &&& 0xFF#8) ++ (f.byte3 &&& 0xFF#8) ++
        (f.byte4 &&& 0xFF#8) := by
  simp only [← BitVec.and_append]
  rfl

/-- Putting a PLL word into a frame changes the PLL bits only. -/
theorem toBits_withPll_outsidePll (f : Frame) (p : PllWord) :
    (withPll f p).toBits &&& 0xC000FFFFFF#40 = f.toBits &&& 0xC000FFFFFF#40 := by
  rw [toBits_and_outsidePll, toBits_and_outsidePll, withPll_byte0_highTwo, BitVec.and_zero, BitVec.and_zero]
  rfl

/-! The standing of a chip after a write that asked for the delay `left`. -/

/-- What a wait of `ms` leaves of a chip that had the delay `left` to wait out, and a read of it: below the delay every bit is
free, from the delay on the chip is settled (R49, R51, R232). -/
theorem chip_after_wait (f : Frame) (ms left : Nat) :
    (ms < left → ∀ raw, readFrame ⟨f, Standing.wait ms (.settling left)⟩ raw = raw) ∧
    (left ≤ ms → (⟨f, Standing.wait ms (.settling left)⟩ : Chip) = { reg := f, standing := .settled }) :=
  ⟨fun h raw => readFrame_free (by simp [wait_settling_of_lt h]) raw, fun h => by rw [wait_settling_of_le h]⟩

/-! The bare bus transactions and the bare wait (R12, R45). -/

theorem perform_settle (ms : Nat) (s : State) : perform (.settle ms) s = .next (settle ms s) := rfl

section
variable {s : State}

theorem perform_busRead_done {raw : Frame} (h : busAnswer s = .done raw) :
    perform .busRead s =
      .next { Spec.didRead s (readFrame s.chip raw) with reply := .frame (readFrame s.chip raw) } := by
  rw [perform, busRead_done h]
  rfl

theorem perform_busWrite_done {raw : Frame} (h : busAnswer s = .done raw) (f : Frame) (k : WriteKind) :
    perform (.busWrite f k) s = .next (returning .done { tickBus s with
      chip := { reg := f, standing := .settling (settleMs k) }
      wire := .write Config.chipAddr (busBytes f) :: s.wire }) := by
  rw [perform, busWrite_done h]

theorem perform_busWrite_failed {c : BusError} {left : Frame} (h : busAnswer s = .failed c left) (f : Frame)
    (k : WriteKind) : perform (.busWrite f k) s = .next (returning (.busError c)
      { tickBus s with chip := { reg := left, standing := .unknown } }) := by
  rw [perform, busWrite_failed h]

end

end Sys2Proof.Machine

namespace Sys2Proof.Spec

open Sys2Proof.Machine

/-- Settles O38: the frame read is `readFrame`, which puts the PLL word of a settled register into the frame offered. -/
theorem readReturnsTheSettledPll : Obligations.ReadReturnsTheSettledPll := by
  intro s raw hbus
  refine ⟨_, perform_busRead_done hbus, fun hsettled => ?_, fun hfree => readFrame_free hfree raw⟩
  rw [readFrame_settled hsettled]
  exact ⟨pllField_withPll _ _, toBits_withPll_outsidePll _ _⟩

/-- Settles O39: the write starts the delay of its kind, and waits add up. -/
theorem writeThenSettle : Obligations.WriteThenSettle := by
  refine ⟨rfl, rfl, fun s f k => ⟨fun raw hbus => ?done, fun c left hbus => ?failed⟩⟩
  case done =>
    refine ⟨_, perform_busWrite_done hbus f k, rfl, rfl, rfl, readFrame_free (by simp), fun ms => ?_⟩
    obtain ⟨hfree, hsettled⟩ := chip_after_wait f ms (settleMs k)
    refine ⟨_, perform_settle ms _, hfree, hsettled, fun more => ⟨_, perform_settle more _, ?_⟩⟩
    simp only [settle_chip, returning_chip, wait_wait]
    exact chip_after_wait f (ms + more) (settleMs k)
  case failed => exact ⟨_, perform_busWrite_failed hbus f k, rfl, rfl, rfl, rfl⟩

end Sys2Proof.Spec
end

section
/-! PROOFS. Which request words are instructions (30_encoding.md R60, R62 to R66, R69, R70, R76, R78): what the decoder answers
at each opcode, and so that decoding and encoding undo each other and that exactly the words of R69 are refused. -/

namespace Sys2Proof

/-! The names of R76. -/

/-- The name of an instruction's expansion is the instruction, but for a MOD written out where R76 has a name for it (log 5). -/
theorem named_expand {i : Instr} (h : i.WellFormed) : i.expand.named = i := by
  cases i with
  | mod f m s =>
    cases m <;> cases s
    case set.set | set.clr | clr.set | clr.clr => rfl
    all_goals exact absurd h Bool.false_ne_true
  | _ => rfl

theorem expand_named (i : Instr) : i.named.expand = i.expand := by
  cases i with
  | mod f m s => cases m <;> cases s <;> rfl
  | _ => rfl

theorem named_wellFormed (i : Instr) : i.named.WellFormed := by
  cases i with
  | mod f m s => cases m <;> cases s <;> rfl
  | _ => rfl

/-- A MOD and the name R76 gives it are the same word. -/
theorem encode_named (i : Instr) : encode i.named = encode i := by
  rw [← encode_expand i.named, expand_named, encode_expand]

/-- No mutator has the reserved field value (R66). -/
theorem MutOp.toBits_ne_reserved (m : MutOp) : m.toBits ≠ 3#2 := by
  cases m <;> decide

/-! R78's decoder, opcode by opcode. -/

/-- The opcodes of R60 and the reserved ones of R69. -/
theorem opcode_cases (v : BitVec 4) : v = 1#4 ∨ v = 2#4 ∨ v = 3#4 ∨ v = 4#4 ∨ (v = 0#4 ∨ 5 ≤ v.toNat) := by
  revert v
  decide

section
variable {w : ReqWord}

theorem decodeCore_opQuant (h : w.extractLsb' 44 4 = 1#4) : decodeCore w =
    if w.extractLsb' 18 26 ≠ 0 then .illegal .reservedBits else .legal (.quant (freqField w)) := by
  simp [decodeCore, h]

theorem decodeCore_opEnc (h : w.extractLsb' 44 4 = 2#4) : decodeCore w =
    if w.extractLsb' 21 23 ≠ 0 then .illegal .reservedBits
    else .legal (.enc (freqField w) (w.getLsbD 18) (w.getLsbD 19) (w.getLsbD 20)) := by
  simp [decodeCore, h]

theorem decodeCore_opDec (h : w.extractLsb' 44 4 = 3#4) : decodeCore w =
    if w.extractLsb' 40 4 ≠ 0 then .illegal .reservedBits else .legal (.dec (frameField w)) := by
  simp [decodeCore, h]

theorem decodeCore_opMod_reserved (h : w.extractLsb' 44 4 = 4#4)
    (hr : w.extractLsb' 40 2 = 3#2 ∨ w.extractLsb' 42 2 = 3#2) : decodeCore w = .illegal .reservedMutator := by
  simp only [← MutOp.ofBits_eq_none] at hr
  rcases hr with hm | hs
  · simp [decodeCore, h, hm]
  · cases hm : MutOp.ofBits (w.extractLsb' 40 2) <;> simp [decodeCore, h, hm, hs]

/-- The two mutators of a MOD are those whose bits stand in its two mutator fields. -/
theorem decodeCore_opMod (h : w.extractLsb' 44 4 = 4#4) (hm : w.extractLsb' 40 2 ≠ 3#2)
    (hs : w.extractLsb' 42 2 ≠ 3#2) : ∃ m s : MutOp, w.extractLsb' 40 2 = m.toBits ∧ w.extractLsb' 42 2 = s.toBits ∧
      decodeCore w = .legal (.mod (frameField w) m s) := by
  obtain ⟨m, hm⟩ := Option.ne_none_iff_exists'.mp (mt (MutOp.ofBits_eq_none _).mp hm)
  obtain ⟨s, hs⟩ := Option.ne_none_iff_exists'.mp (mt (MutOp.ofBits_eq_none _).mp hs)
  exact ⟨m, s, (MutOp.toBits_of_ofBits hm).symm, (MutOp.toBits_of_ofBits hs).symm, by simp [decodeCore, h, hm, hs]⟩

theorem decodeCore_opReserved (h : w.extractLsb' 44 4 = 0#4 ∨ 5 ≤ (w.extractLsb' 44 4).toNat) :
    decodeCore w = .illegal .reservedOpcode := by
  have hne : ∀ v : BitVec 4, v = 0#4 ∨ 5 ≤ v.toNat → v ≠ 1#4 ∧ v ≠ 2#4 ∧ v ≠ 3#4 ∧ v ≠ 4#4 := by decide
  obtain ⟨h1, h2, h3, h4⟩ := hne _ h
  simp [decodeCore, h1, h2, h3, h4]

/-! The other direction: a word that decodes is its fields, one above the other as the formats show them. -/

theorem ofBool_getLsbD {n : Nat} (w : BitVec n) (k : Nat) : BitVec.ofBool (w.getLsbD k) = w.extractLsb' k 1 := by
  ext j hj
  obtain rfl : j = 0 := by omega
  simp

theorem toBits_frameField (w : ReqWord) : (frameField w).toBits = w.extractLsb' 0 40 :=
  Frame.toBits_ofBits _

theorem encode_quant_of_fields (hop : w.extractLsb' 44 4 = 1#4) (hr : w.extractLsb' 18 26 = 0#26) :
    encode (.quant (freqField w)) = w := by
  rw [encode, ← hop, ← hr, freqField]
  simp only [BitVec.extractLsb'_append_extractLsb'_eq_extractLsb']
  exact BitVec.extractLsb'_eq_self

theorem encode_enc_of_fields (hop : w.extractLsb' 44 4 = 2#4) (hr : w.extractLsb' 21 23 = 0#23) :
    encode (.enc (freqField w) (w.getLsbD 18) (w.getLsbD 19) (w.getLsbD 20)) = w := by
  rw [encode, ← hop, ← hr, freqField]
  simp only [ofBool_getLsbD, BitVec.extractLsb'_append_extractLsb'_eq_extractLsb']
  exact BitVec.extractLsb'_eq_self

theorem encode_dec_of_fields (hop : w.extractLsb' 44 4 = 3#4) (hr : w.extractLsb' 40 4 = 0#4) :
    encode (.dec (frameField w)) = w := by
  rw [encode, ← hop, ← hr, toBits_frameField]
  simp only [BitVec.extractLsb'_append_extractLsb'_eq_extractLsb']
  exact BitVec.extractLsb'_eq_self

theorem encode_mod_of_fields {m s : MutOp} (hop : w.extractLsb' 44 4 = 4#4) (hm : w.extractLsb' 40 2 = m.toBits)
    (hs : w.extractLsb' 42 2 = s.toBits) : encode (.mod (frameField w) m s) = w := by
  rw [encode, ← hop, ← hm, ← hs, toBits_frameField]
  simp only [BitVec.extractLsb'_append_extractLsb'_eq_extractLsb']
  exact BitVec.extractLsb'_eq_self

/-- A word that is read has passed the check of its format's reserved field (R70). -/
theorem legal_of_ite {p : Prop} [Decidable p] {why : IllegalReason} {i j : Instr}
    (h : (if p then Decoded.illegal why else .legal j) = .legal i) : ¬p ∧ j = i := by
  split at h
  next => cases h
  next hp => exact ⟨hp, Decoded.legal.inj h⟩

/-- A word that R78's decoder reads is the encoding of what it reads. -/
theorem encode_of_decodeCore {i : Instr} (h : decodeCore w = .legal i) : encode i = w := by
  rcases opcode_cases (w.extractLsb' 44 4) with hop | hop | hop | hop | hop
  · obtain ⟨hr, rfl⟩ := legal_of_ite ((decodeCore_opQuant hop).symm.trans h)
    exact encode_quant_of_fields hop (not_not.mp hr)
  · obtain ⟨hr, rfl⟩ := legal_of_ite ((decodeCore_opEnc hop).symm.trans h)
    exact encode_enc_of_fields hop (not_not.mp hr)
  · obtain ⟨hr, rfl⟩ := legal_of_ite ((decodeCore_opDec hop).symm.trans h)
    exact encode_dec_of_fields hop (not_not.mp hr)
  · by_cases hr : w.extractLsb' 40 2 = 3#2 ∨ w.extractLsb' 42 2 = 3#2
    · rw [decodeCore_opMod_reserved hop hr] at h
      cases h
    · obtain ⟨hm, hs⟩ := not_or.mp hr
      obtain ⟨m, s, hm, hs, hmod⟩ := decodeCore_opMod hop hm hs
      rw [hmod] at h
      cases h
      exact encode_mod_of_fields hop hm hs
  · rw [decodeCore_opReserved hop] at h
    cases h

/-- The decoder of the machine answers a name of what R78's decoder answers (log 5). -/
theorem decode_eq_legal_iff {i : Instr} : decode w = .legal i ↔ ∃ j, decodeCore w = .legal j ∧ i = j.named := by
  rw [decode]
  cases decodeCore w with
  | legal j => simp [eq_comm]
  | illegal why => simp

theorem decode_eq_illegal_iff {why : IllegalReason} : decode w = .illegal why ↔ decodeCore w = .illegal why := by
  rw [decode]
  cases decodeCore w <;> simp

end

/-! The match and mask columns of R78's table. -/

/-- A field whose bits a mask all keeps stands in the masked word as it does in the word. -/
theorem extractLsb'_of_and_eq {w mask v : ReqWord} {start len : Nat} (h : w &&& mask = v)
    (hmask : mask.extractLsb' start len = BitVec.allOnes len) : w.extractLsb' start len = v.extractLsb' start len := by
  rw [← h, BitVec.extractLsb'_and, hmask, BitVec.and_allOnes]

/-- A word that R78's decoder reads lies in the row of what it reads. -/
theorem and_maskBits_of_decodeCore {w : ReqWord} {i : Instr} (row : Laws.TableRow.Statement i)
    (h : decodeCore w = .legal i) : w &&& i.maskBits = i.matchBits :=
  encode_of_decodeCore h ▸ row.1

end Sys2Proof

namespace Sys2Proof.Spec

open Sys2Proof.Machine

/-- R78's decoder refuses the words of R69 and no others. -/
theorem decodeCore_illegal_iff (w : ReqWord) : (∃ why, decodeCore w = .illegal why) ↔ illegalWord w := by
  simp only [illegalWord, op]
  rcases opcode_cases (w.extractLsb' 44 4) with hop | hop | hop | hop | hop
  · simp [decodeCore_opQuant hop, hop, ite_eq_iff]
  · simp [decodeCore_opEnc hop, hop, ite_eq_iff]
  · simp [decodeCore_opDec hop, hop, ite_eq_iff]
  · by_cases hr : w.extractLsb' 40 2 = 3#2 ∨ w.extractLsb' 42 2 = 3#2
    · simp [decodeCore_opMod_reserved hop hr, hop, hr]
    · obtain ⟨hm, hs⟩ := not_or.mp hr
      obtain ⟨m, s, -, -, hmod⟩ := decodeCore_opMod hop hm hs
      simp [hmod, hop, hm, hs]
  · exact iff_of_true ⟨_, decodeCore_opReserved hop⟩ (hop.imp_right .inl)

/-- Settles O4: a well-formed instruction is the name of its expansion, which is what decoding its word answers. -/
theorem decodeOfEncodeIsIdentity : Obligations.DecodeOfEncodeIsIdentity := by
  intro i h
  rw [decode_encode, named_expand h]

/-- Settles O5: what each of the two decoders reads in an encoded word. -/
theorem decodeOfEncodeIsExpansion : Obligations.DecodeOfEncodeIsExpansion :=
  fun i => ⟨decodeCore_encode i, decode_encode i⟩

/-- Settles O6: R78's decoder loses no bit of a word, and a name changes neither the word nor is it named again. -/
theorem encodeOfDecodeIsIdentity : Obligations.EncodeOfDecodeIsIdentity := by
  intro w i h
  obtain ⟨j, hj, rfl⟩ := decode_eq_legal_iff.mp h
  exact ⟨(encode_named j).trans (encode_of_decodeCore hj), named_wellFormed j⟩

/-- Settles O2: opcode by opcode, for R78's decoder, which refuses the same words. -/
theorem illegalWordsAreExactlyThoseOfTheRule : Obligations.IllegalWordsAreExactlyThoseOfTheRule := by
  intro w
  simp only [decode_eq_illegal_iff]
  exact decodeCore_illegal_iff w

/-- Settles O1: each legal word is the encoding of a well-formed instruction, so O4 decodes it. -/
theorem specWordsDecode : Obligations.SpecWordsDecode := by
  refine ⟨?_, ?_, ?_, ?_, ?_, ?_⟩
  · exact decodeOfEncodeIsIdentity (.quant 200000#18) rfl
  · exact decodeOfEncodeIsIdentity (.enc 96600#18 false true true) rfl
  · exact decodeOfEncodeIsIdentity (.dec ⟨0xAE, 0x2B, 0x80, 0xA7, 0x00⟩) rfl
  · exact decodeOfEncodeIsIdentity (.mod ⟨0xAE, 0x2B, 0xB5, 0xA7, 0xC3⟩ .set .clr) rfl
  · exact decodeOfEncodeIsIdentity (.modMute ⟨0xAE, 0x2B, 0xB5, 0xA7, 0xC3⟩) rfl
  · exact decode_eq_illegal_iff.mpr (decodeCore_opReserved (.inl rfl))

/-- Settles O3: a word that is read is the encoding of an instruction, which lies in its row; and the match of a row fixes the
opcode and, in formats Q, E and D, the reserved field. -/
theorem matchAndMaskSelectTheInstruction : Obligations.MatchAndMaskSelectTheInstruction := by
  intro w
  refine ⟨⟨fun ⟨f, h⟩ => and_maskBits_of_decodeCore (Laws.TableRow.quant f) h, fun h => ?quant⟩,
    ⟨fun ⟨f, m, s, d, h⟩ => and_maskBits_of_decodeCore (Laws.TableRow.enc f m s d) h, fun h => ?enc⟩,
    ⟨fun ⟨f, h⟩ => and_maskBits_of_decodeCore (Laws.TableRow.dec f) h, fun h => ?dec⟩,
    ⟨fun ⟨f, m, s, h⟩ => ⟨and_maskBits_of_decodeCore (Laws.TableRow.mod f m s) h, ?mutators⟩, fun ⟨h, hm, hs⟩ => ?mod⟩⟩
  case quant =>
    have hop : w.extractLsb' 44 4 = 1#4 := extractLsb'_of_and_eq h (by decide)
    have hr : w.extractLsb' 18 26 = 0#26 := extractLsb'_of_and_eq h (by decide)
    exact ⟨_, (decodeCore_opQuant hop).trans (if_neg (not_not.mpr hr))⟩
  case enc =>
    have hop : w.extractLsb' 44 4 = 2#4 := extractLsb'_of_and_eq h (by decide)
    have hr : w.extractLsb' 21 23 = 0#23 := extractLsb'_of_and_eq h (by decide)
    exact ⟨_, _, _, _, (decodeCore_opEnc hop).trans (if_neg (not_not.mpr hr))⟩
  case dec =>
    have hop : w.extractLsb' 44 4 = 3#4 := extractLsb'_of_and_eq h (by decide)
    have hr : w.extractLsb' 40 4 = 0#4 := extractLsb'_of_and_eq h (by decide)
    exact ⟨_, (decodeCore_opDec hop).trans (if_neg (not_not.mpr hr))⟩
  case mutators =>
    rw [← encode_of_decodeCore h, extractLsb'_muteOp_encode_mod, extractLsb'_stereoOp_encode_mod]
    exact ⟨m.toBits_ne_reserved, s.toBits_ne_reserved⟩
  case mod =>
    have hop : w.extractLsb' 44 4 = 4#4 := extractLsb'_of_and_eq h (by decide)
    obtain ⟨m, s, -, -, hmod⟩ := decodeCore_opMod hop hm hs
    exact ⟨_, m, s, hmod⟩

/-- An instruction and its expansion are the same word and have the same meaning; for a pseudo-instruction the word is a byte
above the frame (R76). -/
theorem eq_expansion (i : Instr) (s : State) {b : BitVec 8} {f : Frame} (hb : encode i = b ++ f.toBits) :
    encode i = encode i.expand ∧ exec i s = exec i.expand s ∧ (encode i).extractLsb' 40 8 = b := by
  refine ⟨(encode_expand i).symm, (exec_expand i s).symm, ?_⟩
  rw [hb]
  exact BitVec.extractLsb'_append_eq_left

/-- Settles O7: the word and the meaning of an instruction are those of its expansion. -/
theorem pseudoInstructionsAreTheirExpansions : Obligations.PseudoInstructionsAreTheirExpansions :=
  fun f s => ⟨eq_expansion (.modRewrite f) s rfl, eq_expansion (.modMute f) s rfl, eq_expansion (.modUnmute f) s rfl,
    eq_expansion (.modMono f) s rfl, eq_expansion (.modStereo f) s rfl⟩

end Sys2Proof.Spec
end

section
/-! PROOFS. The status of a response (30_encoding.md R61, R68, R69; 60_exceptions.md R201). -/

namespace Sys2Proof.Machine

/-- An instruction completes with a payload, or is the one error an instruction raises (R200). -/
theorem exec_responds (i : Instr) :
    (∃ p, ∀ s, exec i s = .next (respondOk p s)) ∨ ∀ s, exec i s = .next (raise .invalidFrequency s) := by
  cases i with
  | enc f m st d =>
    cases h : inBand f.toNat
    · exact .inr (exec_enc_outOfBand h m st d)
    · exact .inl ⟨_, exec_enc_inBand h m st d⟩
  | _ => exact .inl ⟨_, fun s => rfl⟩

section
variable {w : ReqWord}

theorem codec_of_answer {v : RspWord} (h : answer w State.reset = .next (driveRsp v State.reset)) : codec w = v := by
  rw [codec, h]
  exact driveRsp_rsp v _

theorem codec_illegal {why : IllegalReason} (h : decode w = .illegal why) : codec w = responseWord .illegalRequest 0 :=
  codec_of_answer (by rw [answer, h, raise_eq])

theorem codec_legal {i : Instr} (h : decode w = .legal i) :
    (∃ p, codec w = responseWord .ok p) ∨ codec w = responseWord .invalidFrequency 0 := by
  rcases exec_responds i with ⟨p, hok⟩ | herr
  · exact .inl ⟨p, codec_of_answer (by rw [answer_legal h, hok, respondOk_eq])⟩
  · exact .inr (codec_of_answer (by rw [answer_legal h, herr, raise_eq]))

/-- The response of R68 to a word that is no legal instruction, and to no other word. -/
theorem codec_eq_illegalRequest_iff :
    codec w = responseWord .illegalRequest 0 ↔ ∃ why, decode w = .illegal why := by
  refine ⟨fun hcodec => ?_, fun ⟨_, h⟩ => codec_illegal h⟩
  cases h : decode w with
  | illegal why => exact ⟨why, rfl⟩
  | legal i =>
    have hst : stField (codec w) = 2#4 := by rw [hcodec, stField_responseWord]; rfl
    rcases codec_legal h with ⟨p, hok⟩ | herr
    · rw [hok, stField_responseWord] at hst
      exact absurd hst (by decide)
    · rw [herr, stField_responseWord] at hst
      exact absurd hst (by decide)

end

end Sys2Proof.Machine

namespace Sys2Proof.Spec

open Sys2Proof.Machine

/-- Settles O12: a response is OK with its payload, or one of the two error words. -/
theorem statusAndErrorWords : Obligations.StatusAndErrorWords := by
  intro w
  cases h : decode w with
  | illegal why => rw [codec_illegal h]; decide
  | legal i =>
    rcases codec_legal h with ⟨p, hok⟩ | herr
    · rw [hok, stField_responseWord]
      exact ⟨by decide, fun h1 => absurd h1 (by decide), fun h2 => absurd h2 (by decide)⟩
    · rw [herr]; decide

theorem answered_inj {s : State} {u v : RspWord} : answered s u = answered s v ↔ u = v :=
  ⟨congrArg State.rsp, congrArg (answered s)⟩

/-- Settles O14: a step answers with the response of R20, which is IllegalRequest's word for the words of R69 alone. -/
theorem illegalRequestAnswersIllegalWords : Obligations.IllegalRequestAnswersIllegalWords := by
  intro w s
  rw [responseIsAFunctionOfTheRequest w s, Host.Outcome.next.injEq, answered_inj,
    ← illegalWordsAreExactlyThoseOfTheRule w, ← codec_eq_illegalRequest_iff]
  rfl

end Sys2Proof.Spec
end

section
/-! PROOFS. The PLL word as bits of a frame, and the response of a MOD (20_memory.md R42; 30_encoding.md R72, R76;
43_modify.md R160 to R163). -/

namespace Sys2Proof.Machine

/-- Putting a frame's own PLL word back leaves the frame as it was (R72). -/
@[simp] theorem withPll_pllField (f : Frame) : withPll f (pllField f) = f := by
  have hhigh : (pllField f).extractLsb' 8 6 = f.byte0.extractLsb' 0 6 := BitVec.extractLsb'_append_eq_left
  have hlow : (pllField f).extractLsb' 0 8 = f.byte1 := BitVec.extractLsb'_append_eq_right
  have hbyte0 : f.byte0.extractLsb' 6 2 ++ f.byte0.extractLsb' 0 6 = f.byte0 :=
    BitVec.extractLsb'_append_extractLsb' (w := 2) (len := 6)
  rw [withPll, hhigh, hlow, hbyte0]

/-- The PLL word is `F[37:24]` (R72). -/
theorem pllField_eq_extractLsb' (f : Frame) : pllField f = f.toBits.extractLsb' 24 14 := by
  have hhigh : f.toBits.extractLsb' 32 6 = f.byte0.extractLsb' 0 6 := by
    simp (disch := omega) only [Frame.toBits, BitVec.extractLsb'_append_eq_of_le]
  have hlow : f.toBits.extractLsb' 24 8 = f.byte1 := by
    simp (disch := omega) only [Frame.toBits, BitVec.extractLsb'_append_eq_of_le, BitVec.extractLsb'_append_eq_of_add_le]
    simp
  rw [pllField, ← hhigh, ← hlow]
  exact BitVec.extractLsb'_append_extractLsb'_eq_extractLsb' rfl

theorem withBit7_withBit7 (b : Byte) (u v : Bool) : withBit7 (withBit7 b u) v = withBit7 b v := by
  rw [withBit7, withBit7_low b u 0 7 le_rfl, withBit7]

theorem withBit7_self (b : Byte) : withBit7 b (b.getLsbD 7) = b := by
  rw [withBit7, ofBool_getLsbD]
  exact BitVec.extractLsb'_append_extractLsb' (w := 1) (len := 7)

/-- The bit a mutator leaves of a bit (R66). -/
def mutatedBit : MutOp → Bool → Bool
  | .nop, v => v
  | .set, _ => true
  | .clr, _ => false

/-- A mutator replaces bit 7 of a byte by the bit it leaves of it, and nothing else (R66, R162). -/
theorem mutateBit7_eq_withBit7 (op : MutOp) (b : Byte) : mutateBit7 op b = withBit7 b (mutatedBit op (b.getLsbD 7)) := by
  cases op with
  | nop => exact (withBit7_self b).symm
  | set => rfl
  | clr => rfl

/-- On a cleared bit SET alone leaves the bit set: of the reconstruction and the mutation, the mutation comes last (R163). -/
theorem mutateBit7_cleared (op : MutOp) (b : Byte) : mutateBit7 op (withBit7 b false) = withBit7 b (op == .set) := by
  have hbit : mutatedBit op false = (op == .set) := by cases op <;> rfl
  rw [mutateBit7_eq_withBit7, withBit7_withBit7, withBit7_getLsbD_seven, hbit]

/-- A response word that carries a frame, byte by byte. -/
theorem responseWord_framePayload_bytes (F : Frame) : responseWord .ok (framePayload F) =
    0#8 ++ F.byte0 ++ F.byte1 ++ F.byte2 ++ F.byte3 ++ F.byte4 := by
  rw [responseWord_framePayload, Frame.toBits]
  simp only [BitVec.append_assoc, BitVec.cast_eq]

end Sys2Proof.Machine

namespace Sys2Proof.Spec

open Sys2Proof.Machine

/-- Settles O30: the two identities of R72, and the place of the PLL word in the frame vector. -/
theorem pllWordIsRoundTrippedLosslessly : Obligations.PllWordIsRoundTrippedLosslessly :=
  fun f p => ⟨pllField_withPll f p, withPll_pllField f, pllField_eq_extractLsb' f⟩

/-- The response that carries the frame of a MOD is R160's. -/
theorem responseWord_modifyFrame (f : Frame) (m st : MutOp) :
    responseWord .ok (framePayload (modifyFrame f m st)) = modFrameRsp f m st := by
  have hbyte0 : (modifyFrame f m st).byte0 = withBit7 f.byte0 (m == .set) := mutateBit7_cleared m f.byte0
  have hbyte2 : (modifyFrame f m st).byte2 = withBit7 f.byte2 (mutatedBit st (f.byte2.getLsbD 7)) :=
    mutateBit7_eq_withBit7 st f.byte2
  rw [responseWord_framePayload_bytes, hbyte0, hbyte2]
  cases st <;> rfl

/-- MOD completes with R160's response. -/
theorem exec_mod_modFrameRsp (f : Frame) (m st : MutOp) (s : State) :
    exec (.mod f m st) s = .next { s with rsp := modFrameRsp f m st } := by
  rw [exec_mod, respondOk_eq, responseWord_modifyFrame, driveRsp]

/-- A pseudo-instruction completes with R160's response to its fixed mutator (R76). -/
theorem exec_of_expand_mod {i : Instr} {f : Frame} {m st : MutOp} (hi : i.expand = .mod f m st) (s : State) :
    exec i s = .next { s with rsp := modFrameRsp f m st } := by
  rw [← exec_expand, hi, exec_mod_modFrameRsp]

/-- Settles O32: the expansion of each pseudo-instruction is a MOD, which completes with R160's response. -/
theorem pseudoInstructionsAnswerTheWriteFrame : Obligations.PseudoInstructionsAnswerTheWriteFrame :=
  fun f s => ⟨exec_of_expand_mod (i := .modRewrite f) rfl s, exec_of_expand_mod (i := .modMute f) rfl s,
    exec_of_expand_mod (i := .modUnmute f) rfl s, exec_of_expand_mod (i := .modStereo f) rfl s,
    exec_of_expand_mod (i := .modMono f) rfl s⟩

end Sys2Proof.Spec
end

section
/-! PROOFS. The quantisers, and the response of a QUANT (40_quantizer.md R100 to R105, R107). -/

namespace Sys2Proof.Machine

/-! The grid quantiser: it sends every frequency into the band, and moves no grid frequency of the band (R100). -/

theorem gridQuant_mem_band (f : Nat) : 87500 ≤ gridQuant f ∧ gridQuant f ≤ 108000 :=
  (inBand_iff _).mp (inBand_gridQuant f)

theorem gridQuant_mod_grid (f : Nat) : gridQuant f % 100 = 0 := by
  rw [gridQuant_eq, Nat.mul_mod_right]

theorem gridQuant_mono {f g : Nat} (h : f ≤ g) : gridQuant f ≤ gridQuant g := by
  rw [gridQuant_eq, gridQuant_eq]
  gcongr

theorem gridQuant_of_onGrid {f : Nat} (hband : 87500 ≤ f ∧ f ≤ 108000) (hgrid : f % 100 = 0) : gridQuant f = f := by
  rw [gridQuant_eq]
  omega

/-- The ends of the band are grid frequencies, so clamping to the band may as well come before rounding (R107). -/
theorem gridQuant_eq_round_clamp (f : Nat) : gridQuant f = (min (max f 87500) 108000 + 50) / 100 * 100 := by
  rw [gridQuant_eq]
  omega

/-! The inverse PLL formula: the nearest kHz fixes the result's range and its order (R103, R104, R105). -/

/-- The exact frequency lies less than 500 Hz away. In Hz it is a multiple of 8, which a tie, at 500 modulo 1000, is not
(R104). -/
theorem khzOfPll_nearest (p : Nat) : -500 < 1000 * khzOfPll p - (8192 * (p : Int) - 225000) ∧
    1000 * khzOfPll p - (8192 * (p : Int) - 225000) < 500 := by
  have hnotie : ((p : Int) * 8192 - 225000) % 1000 ≠ 500 := by omega
  rw [khzOfPll_eq]
  split_ifs <;> omega

/-- One PLL step is 8192 Hz, far more than two roundings (R103). -/
theorem khzOfPll_strictMono : StrictMono khzOfPll := by
  intro p q h
  obtain ⟨-, hp⟩ := khzOfPll_nearest p
  obtain ⟨hq, -⟩ := khzOfPll_nearest q
  omega

/-- The ends of the range are the nearest integers to the two exact ends, -225 and 133984.536 kHz (R105). -/
theorem khzOfPll_mem_range {p : Nat} (h : p ≤ 16383) : -225 ≤ khzOfPll p ∧ khzOfPll p ≤ 133985 := by
  obtain ⟨hlo, hhi⟩ := khzOfPll_nearest p
  omega

theorem pllOfKHz_mem_range {f : Nat} (hlo : 87500 ≤ f) (hhi : f ≤ 108000) :
    10708 ≤ pllOfKHz f ∧ pllOfKHz f ≤ 13211 := by
  rw [pllOfKHz_eq]
  omega

/-- An integer in the range of 19-bit two's complement is read back as it was written (R11). -/
theorem int19_tc19 {i : Int} (hlo : -262144 ≤ i) (hhi : i < 262144) : int19 (tc19 i) = i :=
  BitVec.toInt_ofInt_eq_self (by decide) hlo hhi

/-! The response of a QUANT (R67, R101). -/

/-- An OK response is its payload under a zero `ST` (R61). -/
theorem responseWord_ok (p : Payload) : responseWord .ok p = p.setWidth 48 :=
  (BitVec.setWidth_eq_append (by decide)).symm

/-- `FQ_KHZ` loses no bit of a grid frequency, so the response is the frequency itself (R67, R105). -/
theorem responseWord_quant (f : Nat) :
    responseWord .ok ((BitVec.ofNat 17 (gridQuant f)).setWidth 44) = BitVec.ofNat 48 (gridQuant f) := by
  obtain ⟨-, hle⟩ := gridQuant_mem_band f
  rw [BitVec.setWidth_ofNat_of_le_of_lt (by decide) (by omega), responseWord_ok,
    BitVec.setWidth_ofNat_of_le_of_lt (by decide) (by omega)]

end Sys2Proof.Machine

namespace Sys2Proof.Spec

open Sys2Proof.Machine

theorem gridQuant_eq_gridKHz (f : Nat) : gridQuant f = gridKHz f :=
  gridQuant_eq f

theorem pllOfKHz_eq_pllOf (f : Nat) : pllOfKHz f = pllOf f := by
  rw [pllOfKHz_eq, pllOf]
  omega

theorem khzOfPll_eq_kHzOf (p : Nat) : khzOfPll p = kHzOf p := by
  rw [khzOfPll_eq, kHzOf, mul_comm]

/-- A word that is no legal instruction is answered with IllegalRequest's word (R68, R69, R201). -/
theorem step_presented_illegal {w : ReqWord} {why : IllegalReason} (h : decode w = .illegal why) (s : State) :
    step (presented s w) = .next (answered s 0x200000000000#48) := by
  rw [responseIsAFunctionOfTheRequest, codec_illegal h]
  rfl

/-- Settles O15: QUANT completes with the grid frequency, which 17 bits hold. -/
theorem quantAnswersTheGridFrequency : Obligations.QuantAnswersTheGridFrequency := by
  intro f s
  rw [exec_quant, respondOk_eq, responseWord_quant, gridQuant_eq_gridKHz, driveRsp]

/-- Settles O16: at QUANT's opcode the reserved field alone decides whether the word is refused or runs QUANT. -/
theorem quantWords : Obligations.QuantWords := by
  intro w s hop
  have hcore := decodeCore_opQuant hop
  split_ifs with hr
  · exact step_presented_illegal (decode_eq_illegal_iff.mpr (hcore.trans (if_pos hr))) s
  · have hquant : decode w = .legal (.quant (freqField w)) :=
      decode_eq_legal_iff.mpr ⟨_, hcore.trans (if_neg hr), rfl⟩
    rw [stepRunsTheDecodedInstruction s w _ hquant, quantAnswersTheGridFrequency]
    rfl

/-- Settles O17: a value of the grid quantiser is a grid frequency of the band, which quantising again does not move. -/
theorem gridQuantiserLaws : Obligations.GridQuantiserLaws := by
  intro f g
  obtain ⟨hlo, hhi⟩ := gridQuant_mem_band f
  have hgrid := gridQuant_mod_grid f
  exact ⟨gridQuant_eq_gridKHz f, hlo, hhi, hgrid, gridQuant_mono, gridQuant_of_onGrid ⟨hlo, hhi⟩ hgrid,
    gridQuant_eq_round_clamp f⟩

/-- Settles O18: the two formulas, and the decoded frequency as the nearest integer, which no tie makes ambiguous. -/
theorem pllQuantisersAreTheFormulas : Obligations.PllQuantisersAreTheFormulas :=
  ⟨pllOfKHz_eq_pllOf, fun p => ⟨khzOfPll_eq_kHzOf p, khzOfPll_nearest p⟩⟩

/-- Settles O19: the ranges of the two PLL quantisers, the second inside 19-bit two's complement, and its order. -/
theorem resultsFitTheirFields : Obligations.ResultsFitTheirFields := by
  refine ⟨fun f => pllOfKHz_mem_range, fun p hp => ?_, fun p q h => khzOfPll_strictMono h⟩
  obtain ⟨hlo, hhi⟩ := khzOfPll_mem_range hp
  exact ⟨hlo, hhi, int19_tc19 (by omega) (by omega)⟩

end Sys2Proof.Spec
end

section
/-! PROOFS. ENC: its frame bit by bit, and its response to an instruction and to a request word (41_encode.md R120 to R125;
60_exceptions.md R205, R206). -/

namespace Sys2Proof.Machine

/-- Two frame vectors are masked byte by byte. -/
theorem toBits_and_toBits (f g : Frame) : f.toBits &&& g.toBits =
    Frame.toBits ⟨f.byte0 &&& g.byte0, f.byte1 &&& g.byte1, f.byte2 &&& g.byte2, f.byte3 &&& g.byte3,
      f.byte4 &&& g.byte4⟩ := by
  simp only [Frame.toBits, ← BitVec.and_append]

section
variable (f : Nat) (m st d : Bool)

/-- The PLL word stands in the frame whole (R122). -/
theorem pllField_encodeFrame : pllField (encodeFrame f m st d) = BitVec.ofNat 14 (pllOfKHz f) := by
  have hhigh : (encodeFrame f m st d).byte0.extractLsb' 0 6 = (BitVec.ofNat 14 (pllOfKHz f)).extractLsb' 8 6 :=
    BitVec.extractLsb'_append_eq_right
  rw [pllField, hhigh]
  exact BitVec.extractLsb'_append_extractLsb' (w := 6) (len := 8)

/-- Bit 6 of byte0 is between the mute bit and the PLL word, and nothing sets it (R124). -/
theorem encodeFrame_byte0_and : (encodeFrame f m st d).byte0 &&& 0x40#8 = 0#8 := by
  have hhigh : (BitVec.ofBool m ++ 0#1) &&& 1#2 = 0#2 := by cases m <;> decide
  calc (encodeFrame f m st d).byte0 &&& 0x40#8
      = ((BitVec.ofBool m ++ 0#1) ++ (BitVec.ofNat 14 (pllOfKHz f)).extractLsb' 8 6) &&& (1#2 ++ 0#6) := rfl
    _ = 0#8 := by rw [BitVec.and_append, hhigh, BitVec.and_zero]; rfl

/-- The bits nothing sets, byte by byte (R124). -/
theorem encodeFrame_and_unset : (encodeFrame f m st d).toBits &&& 0x40007FEFFF#40 = 0 := by
  have hbyte2 : (BitVec.ofBool st ++ 0#7) &&& 0x7F#8 = 0#8 := by cases st <;> decide
  have hbyte3 : deemphByte d &&& 0xEF#8 = 0#8 := by cases d <;> decide
  calc (encodeFrame f m st d).toBits &&& 0x40007FEFFF#40
      = Frame.toBits ⟨(encodeFrame f m st d).byte0 &&& 0x40#8, (encodeFrame f m st d).byte1 &&& 0#8,
          (BitVec.ofBool st ++ 0#7) &&& 0x7F#8, deemphByte d &&& 0xEF#8, 0x00#8 &&& 0xFF#8⟩ :=
        toBits_and_toBits _ ⟨0x40#8, 0#8, 0x7F#8, 0xEF#8, 0xFF#8⟩
    _ = 0 := by rw [encodeFrame_byte0_and, hbyte2, hbyte3, BitVec.and_zero]; decide

end

end Sys2Proof.Machine

namespace Sys2Proof.Spec

open Sys2Proof.Machine

/-- The response that carries the frame of an ENC is R120's. -/
theorem responseWord_encodeFrame (f : Nat) (m st d : Bool) :
    responseWord .ok (framePayload (encodeFrame f m st d)) = encRsp f m st d := by
  rw [responseWord_framePayload_bytes, encRsp, ← pllOfKHz_eq_pllOf]
  rfl

/-- The response word of an instruction is the one it drives. -/
theorem rspOf_of_exec {i : Instr} {v : RspWord} (h : exec i State.reset = .next (driveRsp v State.reset)) : rspOf i = v :=
  codec_of_answer (by rw [answer_encode, h])

/-- The frame in a response is the frame the response was made of. -/
theorem frameOf_of_rspOf {i : Instr} {F : Frame} (h : rspOf i = responseWord .ok (framePayload F)) : frameOf i = F := by
  have hbits : (0#8 ++ F.toBits).extractLsb' 0 40 = F.toBits := BitVec.extractLsb'_append_eq_right
  rw [frameOf, h, responseWord_framePayload, hbits, Frame.ofBits_toBits]

theorem frameOf_enc {f : FreqKHz} (h : inBand f.toNat = true) (m st d : Bool) :
    frameOf (.enc f m st d) = encodeFrame f.toNat m st d :=
  frameOf_of_rspOf (rspOf_of_exec (by rw [exec_enc_inBand h, respondOk_eq]))

/-- Settles O21: in the band ENC completes with its frame, whose response is R120's. -/
theorem encInBandAnswersTheFrame : Obligations.EncInBandAnswersTheFrame := by
  intro f m st d s hlo hhi
  have hband : inBand f.toNat = true := (inBand_iff _).mpr ⟨hlo, hhi⟩
  rw [exec_enc_inBand hband, respondOk_eq, responseWord_encodeFrame, driveRsp]

/-- Settles O22: out of the band ENC raises InvalidFrequency, whose response is its status and a zero payload. -/
theorem encOutOfBandRaises : Obligations.EncOutOfBandRaises := by
  intro f m st d s hout
  have hband : inBand f.toNat = false := (inBand_eq_false_iff _).mpr hout
  have hword : responseWord .invalidFrequency 0 = 0x100000000000#48 := rfl
  rw [exec_enc_outOfBand hband, raise_eq, hword, driveRsp]

/-- Settles O23: at ENC's opcode the reserved field decides whether the word is refused, and only then the band whether ENC
completes or raises. -/
theorem encWords : Obligations.EncWords := by
  intro w s hop
  have hcore := decodeCore_opEnc hop
  by_cases hr : w.extractLsb' 21 23 ≠ 0
  · rw [if_pos hr]
    exact step_presented_illegal (decode_eq_illegal_iff.mpr (hcore.trans (if_pos hr))) s
  · have henc : decode w = .legal (.enc (freqField w) (w.getLsbD 18) (w.getLsbD 19) (w.getLsbD 20)) :=
      decode_eq_legal_iff.mpr ⟨_, hcore.trans (if_neg hr), rfl⟩
    rw [if_neg hr, stepRunsTheDecodedInstruction s w _ henc]
    split_ifs with hout
    · exact encOutOfBandRaises _ _ _ _ _ hout
    · obtain ⟨hlo, hhi⟩ := not_or.mp hout
      exact encInBandAnswersTheFrame _ _ _ _ _ (not_lt.mp hlo) (not_lt.mp hhi)

/-- Settles O24: the frame answered is `encodeFrame`, and 14 bits hold the PLL quantiser's result (R105). -/
theorem encFramesAreWriteFrames : Obligations.EncFramesAreWriteFrames := by
  intro f m st d hlo hhi
  obtain ⟨hpllLo, hpllHi⟩ := pllOfKHz_mem_range hlo hhi
  have hpll : (BitVec.ofNat 14 (pllOfKHz f.toNat)).toNat = pllOfKHz f.toNat := by
    rw [BitVec.toNat_ofNat, Nat.mod_eq_of_lt (by omega)]
  rw [frameOf_enc ((inBand_iff _).mpr ⟨hlo, hhi⟩), pllField_encodeFrame, hpll]
  exact ⟨encodeFrame_and_unset _ _ _ _, hpllLo, hpllHi⟩

end Sys2Proof.Spec
end

section
/-! PROOFS. Codec errors and the host: no operation meets one, and a direct request takes whatever it is answered
(44_host_macros.md R190, R194; 60_exceptions.md R207). -/

namespace Sys2Proof.Machine

open Sys2Proof.Spec

/-- The caller got no codec error, and no fault was recorded (R190, R207). -/
def NoCodecError (s t : State) : Prop := (∀ e, t.reply ≠ .codecError e) ∧ t.faults = s.faults

section
variable {s t : State}

theorem writeTune_noCodecError {f : FreqKHz} (h : writeTune f s = .next t) : NoCodecError s t := by
  obtain ⟨raw, -, e⟩ | ⟨c, left, v, -, e⟩ := writeTune_cases answer_encode f s <;> cases e.symm.trans h <;>
    exact ⟨by simp, by simp⟩

theorem hostStep_noCodecError {dir : Direction} (h : hostStep dir s = .next t) : NoCodecError s t := by
  obtain ⟨cur, -, e⟩ | ⟨c, left, -, -, e⟩ | ⟨raw, -, -, e⟩ := hostStep_cases answer_encode dir s
  · exact writeTune_noCodecError (e.symm.trans h)
  · cases e.symm.trans h
    exact ⟨by simp, by simp⟩
  · rw [respondOk_eq] at e
    obtain ⟨hreply, hfaults⟩ := writeTune_noCodecError (e.symm.trans h)
    exact ⟨hreply, hfaults.trans (by simp)⟩

theorem modifyWrite_noCodecError {m st : MutOp} {update : SoftState → SoftState}
    (h : modifyWrite m st update s = .next t) : NoCodecError s t := by
  obtain ⟨c, left, -, e⟩ | ⟨raw, c, left, v, -, -, e⟩ | ⟨raw, raw', -, -, e⟩ :=
    modifyWrite_cases answer_encode m st update s <;> cases e.symm.trans h <;> exact ⟨by simp, by simp⟩

theorem hostReadStatus_noCodecError (h : hostReadStatus s = .next t) : NoCodecError s t := by
  obtain ⟨c, left, -, e⟩ | ⟨raw, -, e⟩ := hostReadStatus_cases answer_encode s <;> cases e.symm.trans h
  · exact ⟨by simp, by simp⟩
  · rw [respondOk_eq]
    exact ⟨by simp, by simp⟩

/-- None of the six operations ends with a codec error. -/
theorem perform_noCodecError {a : HostAction} (ha : isOperation a = true) (h : perform a s = .next t) :
    NoCodecError s t := by
  cases a with
  | tuneTo freq =>
    cases freq with
    | mhz x => exact writeTune_noCodecError h
    | notFinite => cases h
  | stepTune dir => exact hostStep_noCodecError h
  | mute => exact modifyWrite_noCodecError h
  | unmute => exact modifyWrite_noCodecError h
  | setMono flag => exact modifyWrite_noCodecError h
  | readStatus => exact hostReadStatus_noCodecError h
  | _ => cases ha

end

end Sys2Proof.Machine

namespace Sys2Proof.Spec

open Sys2Proof.Machine

/-- R207's taking of a response, read off its status. -/
theorem took_eq (s : State) (v : RspWord) : took s v = { driveRsp v s with
    reply := if stField v = 0#4 then .response (payloadField v)
      else if stField v = 1#4 then .codecError .invalidFrequency else .codecError .illegalRequest
    faults := if stField v = 1#4 then .invalidFrequency :: s.faults else s.faults } := (rfl)

/-- Taking an OK response hands its payload to the caller. -/
theorem took_ok (p : Payload) (s : State) :
    took s (responseWord .ok p) = returning (.response p) (driveRsp (responseWord .ok p) s) := by
  rw [took_eq, stField_responseWord, payloadField_responseWord]
  generalize responseWord .ok p = v
  rfl

/-- Taking an error response hands the error to the caller and records a fault. -/
theorem took_error {e : Status} (he : e ≠ .ok) (p : Payload) (s : State) :
    took s (responseWord e p) = takeError e (driveRsp (responseWord e p) s) := by
  rw [took_eq, stField_responseWord]
  generalize responseWord e p = v
  cases e with
  | ok => exact absurd rfl he
  | invalidFrequency => rfl
  | illegalRequest => rfl

/-- A direct request takes the codec's response to its word. -/
theorem hostRequest_eq_took (w : ReqWord) (s : State) : hostRequest w s = .next (took s (codec w)) := by
  obtain ⟨e, p, h⟩ := answer_responds w
  rw [codec_of_answer (h _), hostRequest, callWord_eq (h s)]
  rcases eq_or_ne e .ok with rfl | he
  · rw [took_ok, takeResponse_ok (by simp), driveRsp_rsp, payloadField_responseWord]
  · rw [took_error he, takeResponse_error (by simp) he]

/-- Settles O48: no operation ends with a codec error, by its cases; a direct request takes what the codec answers. -/
theorem operationsNeverSeeACodecError : Obligations.OperationsNeverSeeACodecError := by
  refine ⟨fun a e s t ha h => ?_, hostRequest_eq_took⟩
  obtain ⟨hreply, hfaults⟩ := perform_noCodecError ha h
  exact ⟨hreply e, hfaults⟩

end Sys2Proof.Spec
end

section
/-! PROOFS. DEC: the bits of a frame it reads, its response field by field, and the decoded frequency (40_quantizer.md R106;
41_encode.md R126; 42_decode.md R140 to R143). -/

namespace Sys2Proof

theorem getLsbD_of_extractLsb'_one {n k : Nat} {w : BitVec n} {b : Bool} (h : w.extractLsb' k 1 = BitVec.ofBool b) :
    w.getLsbD k = b :=
  BitVec.ofBool_eq_iff_eq.mp ((ofBool_getLsbD w k).trans h)

/-- The fields DEC reads, in the frame vector: the mask of R141 keeps them and clears every other bit. -/
theorem FrameBits.and_statusMask (v : FrameBits) : v &&& 0xBFFF80F000#40 =
    BitVec.ofBool (v.getLsbD 39) ++ 0#1 ++ v.extractLsb' 24 14 ++ BitVec.ofBool (v.getLsbD 23) ++ 0#7 ++
      v.extractLsb' 12 4 ++ 0#12 := by
  have hsplit : v.extractLsb' 39 1 ++ v.extractLsb' 38 1 ++ v.extractLsb' 24 14 ++ v.extractLsb' 23 1 ++
      v.extractLsb' 16 7 ++ v.extractLsb' 12 4 ++ v.extractLsb' 0 12 = v := by
    simp only [BitVec.extractLsb'_append_extractLsb'_eq_extractLsb']
    exact BitVec.extractLsb'_eq_self
  have hmask : (0xBFFF80F000#40 : FrameBits) = BitVec.allOnes 1 ++ 0#1 ++ BitVec.allOnes 14 ++ BitVec.allOnes 1 ++ 0#7 ++
      BitVec.allOnes 4 ++ 0#12 := by decide
  calc v &&& 0xBFFF80F000#40
      = (v.extractLsb' 39 1 ++ v.extractLsb' 38 1 ++ v.extractLsb' 24 14 ++ v.extractLsb' 23 1 ++
          v.extractLsb' 16 7 ++ v.extractLsb' 12 4 ++ v.extractLsb' 0 12) &&&
        (BitVec.allOnes 1 ++ 0#1 ++ BitVec.allOnes 14 ++ BitVec.allOnes 1 ++ 0#7 ++ BitVec.allOnes 4 ++ 0#12) :=
        congrArg₂ (· &&& ·) hsplit.symm hmask
    _ = _ := by simp only [BitVec.and_append, BitVec.and_allOnes, BitVec.and_zero, ofBool_getLsbD]

/-- Two frame vectors agree under the mask of R141 exactly if they agree on the four fields DEC reads. -/
theorem FrameBits.and_statusMask_eq_iff (v w : FrameBits) : v &&& 0xBFFF80F000#40 = w &&& 0xBFFF80F000#40 ↔
    v.getLsbD 39 = w.getLsbD 39 ∧ v.getLsbD 23 = w.getLsbD 23 ∧ v.extractLsb' 12 4 = w.extractLsb' 12 4 ∧
      v.extractLsb' 24 14 = w.extractLsb' 24 14 := by
  refine ⟨fun h => ?_, fun ⟨hready, hstereo, hsignal, hpll⟩ => ?_⟩
  · have hbit (k : Nat) (hk : (0xBFFF80F000#40).getLsbD k = true) : v.getLsbD k = w.getLsbD k := by
      simpa only [BitVec.getLsbD_and, hk, Bool.and_true] using congrArg (BitVec.getLsbD · k) h
    have hfield (start len : Nat) (hkept : (0xBFFF80F000#40).extractLsb' start len = BitVec.allOnes len) :
        v.extractLsb' start len = w.extractLsb' start len := by
      simpa only [BitVec.extractLsb'_and, hkept, BitVec.and_allOnes] using congrArg (BitVec.extractLsb' start len) h
    exact ⟨hbit 39 (by decide), hbit 23 (by decide), hfield 12 4 (by decide), hfield 24 14 (by decide)⟩
  · rw [and_statusMask, and_statusMask, hready, hstereo, hsignal, hpll]

namespace Machine

/-! The fields DEC reads, by their places in the frame vector (R42, R140). -/

theorem byte0Bit7_eq_getLsbD (f : Frame) : byte0Bit7 f = f.toBits.getLsbD 39 := by
  rw [Frame.toBits_getLsbD]
  rfl

theorem byte2Bit7_eq_getLsbD (f : Frame) : byte2Bit7 f = f.toBits.getLsbD 23 := by
  rw [Frame.toBits_getLsbD]
  rfl

theorem byte3High_eq_extractLsb' (f : Frame) : byte3High f = f.toBits.extractLsb' 12 4 := by
  simp (disch := omega) only [byte3High, Frame.toBits, BitVec.extractLsb'_append_eq_of_le,
    BitVec.extractLsb'_append_eq_of_add_le]

/-! The same fields in a frame that ENC has written (R122, R123, R126). -/

section
variable (f : Nat) (m st d : Bool)

theorem byte0Bit7_encodeFrame : byte0Bit7 (encodeFrame f m st d) = m := by
  apply getLsbD_of_extractLsb'_one
  simp (disch := omega) only [encodeFrame, BitVec.extractLsb'_append_eq_of_le]
  exact BitVec.extractLsb'_eq_self

theorem byte2Bit7_encodeFrame : byte2Bit7 (encodeFrame f m st d) = st :=
  getLsbD_of_extractLsb'_one BitVec.extractLsb'_append_eq_left

/-- 50 µs is the value 1 of the de-emphasis selector, anything else 0 (R123). -/
theorem byte3High_encodeFrame : byte3High (encodeFrame f m st d) = if d then 1#4 else 0#4 := by
  show (deemphByte d).extractLsb' 4 4 = _
  cases d <;> decide

/-- 14 bits hold the PLL word of a frequency in the band (R105). -/
theorem toNat_pllField_encodeFrame (hlo : 87500 ≤ f) (hhi : f ≤ 108000) :
    (pllField (encodeFrame f m st d)).toNat = pllOfKHz f := by
  obtain ⟨-, hle⟩ := pllOfKHz_mem_range hlo hhi
  rw [pllField_encodeFrame, BitVec.toNat_ofNat, Nat.mod_eq_of_lt (by omega)]

end

/-! The decoded frequency (R103, R106, R143). -/

/-- The floor of the PLL quantiser loses less than one PLL step of 8192 Hz (R102). -/
theorem pllOfKHz_floor (f : Nat) :
    8192 * pllOfKHz f ≤ 1000 * f + 225000 ∧ 1000 * f + 225000 < 8192 * pllOfKHz f + 8192 := by
  rw [pllOfKHz_eq]
  omega

/-- Less than one PLL step is lost on the way to the PLL word, and less than 500 Hz gained or lost on the way back
(R106 a). -/
theorem khzOfPll_pllOfKHz_near (f : Nat) :
    0 ≤ (f : Int) - khzOfPll (pllOfKHz f) ∧ (f : Int) - khzOfPll (pllOfKHz f) ≤ 8 := by
  obtain ⟨hlo, hhi⟩ := khzOfPll_nearest (pllOfKHz f)
  obtain ⟨hfloor, hstep⟩ := pllOfKHz_floor f
  omega

/-- PLL word 27 is 3816 Hz below zero, 28 is 4376 Hz above (R143). -/
theorem khzOfPll_neg_iff (p : Nat) : khzOfPll p < 0 ↔ p ≤ 27 := by
  obtain ⟨hlo, hhi⟩ := khzOfPll_nearest p
  omega

theorem khzOfPll_least : khzOfPll 0 = -225 := by
  obtain ⟨hlo, hhi⟩ := khzOfPll_nearest 0
  omega

theorem khzOfPll_most : khzOfPll 16383 = 133985 := by
  obtain ⟨hlo, hhi⟩ := khzOfPll_nearest 16383
  omega

theorem decodedKHz_mem_range (f : Frame) : -225 ≤ decodedKHz f ∧ decodedKHz f ≤ 133985 := by
  have hpll : (pllField f).toNat < 2 ^ 14 := (pllField f).isLt
  exact khzOfPll_mem_range (by omega)

end Machine
end Sys2Proof

namespace Sys2Proof.Spec

open Sys2Proof.Machine

/-! R140's response, field by field. -/

section
variable (ifReady stereo : Bool) (signal : BitVec 4) (p : BitVec 14)

theorem stField_decRsp : stField (decRsp ifReady stereo signal p) = 0#4 := by
  simp (disch := omega) only [stField, decRsp, BitVec.extractLsb'_append_eq_of_le]
  rfl

theorem decRsp_ifReady : (decRsp ifReady stereo signal p).getLsbD 24 = ifReady := by
  apply getLsbD_of_extractLsb'_one
  simp (disch := omega) only [decRsp, BitVec.extractLsb'_append_eq_of_le, BitVec.extractLsb'_append_eq_of_add_le]
  exact BitVec.extractLsb'_eq_self

theorem decRsp_stereo : (decRsp ifReady stereo signal p).getLsbD 23 = stereo := by
  apply getLsbD_of_extractLsb'_one
  simp (disch := omega) only [decRsp, BitVec.extractLsb'_append_eq_of_le, BitVec.extractLsb'_append_eq_of_add_le]
  exact BitVec.extractLsb'_eq_self

theorem decRsp_signal : (decRsp ifReady stereo signal p).extractLsb' 19 4 = signal := by
  simp (disch := omega) only [decRsp, BitVec.extractLsb'_append_eq_of_le, BitVec.extractLsb'_append_eq_of_add_le]
  exact BitVec.extractLsb'_eq_self

theorem decRsp_freq : (decRsp ifReady stereo signal p).extractLsb' 0 19 = tc19 (khzOfPll p.toNat) := by
  rw [khzOfPll_eq_kHzOf]
  exact BitVec.extractLsb'_append_eq_right

/-- 19 bits hold every decoded frequency (R105). -/
theorem toInt_decRsp_freq : ((decRsp ifReady stereo signal p).extractLsb' 0 19).toInt = khzOfPll p.toNat := by
  obtain ⟨hlo, hhi⟩ := khzOfPll_mem_range (p := p.toNat) (by omega)
  rw [decRsp_freq]
  exact int19_tc19 (by omega) (by omega)

end

/-- R140's response loses nothing of its fields: different PLL words are different frequencies (R103). -/
theorem decRsp_inj {r r' st st' : Bool} {sig sig' : BitVec 4} {p p' : BitVec 14} :
    decRsp r st sig p = decRsp r' st' sig' p' ↔ r = r' ∧ st = st' ∧ sig = sig' ∧ p = p' := by
  refine ⟨fun h => ⟨?ready, ?stereo, ?signal, ?pll⟩, fun ⟨hr, hst, hsig, hp⟩ => by rw [hr, hst, hsig, hp]⟩
  case ready => rw [← decRsp_ifReady r st sig p, h, decRsp_ifReady]
  case stereo => rw [← decRsp_stereo r st sig p, h, decRsp_stereo]
  case signal => rw [← decRsp_signal r st sig p, h, decRsp_signal]
  case pll =>
    have hfreq : khzOfPll p.toNat = khzOfPll p'.toNat := by
      rw [← toInt_decRsp_freq r st sig p, h, toInt_decRsp_freq]
    exact BitVec.eq_of_toNat_eq (khzOfPll_strictMono.injective hfreq)

/-! DEC's response is R140's. -/

theorem responseWord_statusPayload (f : Frame) : responseWord .ok (statusPayload f) =
    decRsp (byte0Bit7 f) (byte2Bit7 f) (byte3High f) (pllField f) := by
  rw [responseWord, statusPayload, decRsp, decodedKHz, khzOfPll_eq_kHzOf]
  simp only [BitVec.append_assoc, BitVec.cast_eq]
  rfl

theorem rspOf_dec (f : Frame) : rspOf (.dec f) = decRsp (byte0Bit7 f) (byte2Bit7 f) (byte3High f) (pllField f) := by
  rw [← responseWord_statusPayload]
  exact rspOf_of_exec (by rw [exec_dec, respondOk_eq])

theorem rspOf_dec_freq (f : Frame) : (rspOf (.dec f)).extractLsb' 0 19 = tc19 (decodedKHz f) := by
  rw [rspOf_dec, decRsp_freq]
  rfl

theorem decodedFreq_eq_decodedKHz (f : Frame) : decodedFreq f = decodedKHz f := by
  rw [decodedFreq, rspOf_dec, toInt_decRsp_freq]
  rfl

/-- Settles O26: the response DEC drives is R140's. -/
theorem decAnswersTheStatus : Obligations.DecAnswersTheStatus := by
  intro f s
  rw [exec_dec, respondOk_eq, responseWord_statusPayload, driveRsp]
  rfl

/-- Settles O27: at DEC's opcode the reserved field alone decides whether the word is refused or runs DEC, whose frame is
`REQ[39:0]`. -/
theorem decWords : Obligations.DecWords := by
  intro w s hop
  have hcore := decodeCore_opDec hop
  split_ifs with hr
  · exact step_presented_illegal (decode_eq_illegal_iff.mpr (hcore.trans (if_pos hr))) s
  · have hdec : decode w = .legal (.dec (frameField w)) :=
      decode_eq_legal_iff.mpr ⟨_, hcore.trans (if_neg hr), rfl⟩
    have hbit (k : Nat) (hk : k < 40) : (w.extractLsb' 0 40).getLsbD k = w.getLsbD k := by simp [hk]
    rw [stepRunsTheDecodedInstruction s w _ hdec, exec_dec, respondOk_eq, responseWord_statusPayload, driveRsp_taken,
      byte0Bit7_eq_getLsbD, byte2Bit7_eq_getLsbD, byte3High_eq_extractLsb', pllField_eq_extractLsb', toBits_frameField,
      hbit 39 (by decide), hbit 23 (by decide), BitVec.extractLsb'_extractLsb'_of_le (by decide),
      BitVec.extractLsb'_extractLsb'_of_le (by decide)]

/-- Settles O28: the response determines the four fields DEC reads, and they determine it; R141's mask keeps just them. -/
theorem decReadsExactlyTheNamedBits : Obligations.DecReadsExactlyTheNamedBits := by
  intro f g
  rw [rspOf_dec, rspOf_dec, decRsp_inj, FrameBits.and_statusMask_eq_iff]
  simp only [byte0Bit7_eq_getLsbD, byte2Bit7_eq_getLsbD, byte3High_eq_extractLsb', pllField_eq_extractLsb']

/-- Settles O29: DEC answers the inverse PLL formula's value, of which 19 bits hold every one. -/
theorem decodedFrequencyMayBeNegative : Obligations.DecodedFrequencyMayBeNegative := by
  refine ⟨fun f => ?all, fun f hp => ?least, fun f hp => ?most⟩
  case all =>
    rw [decodedFreq_eq_decodedKHz]
    exact ⟨khzOfPll_eq_kHzOf _, khzOfPll_neg_iff _, decodedKHz_mem_range f⟩
  case least =>
    have hf : decodedKHz f = -225 := by rw [decodedKHz, hp]; exact khzOfPll_least
    rw [decodedFreq_eq_decodedKHz, rspOf_dec_freq, hf]
    exact ⟨rfl, by decide⟩
  case most =>
    have hf : decodedKHz f = 133985 := by rw [decodedKHz, hp]; exact khzOfPll_most
    rw [decodedFreq_eq_decodedKHz, rspOf_dec_freq, hf]
    exact ⟨rfl, by decide⟩

/-- Settles O25: DEC reads back the three control bits and the PLL word that ENC put into the frame. -/
theorem decOfEncRoundTrip : Obligations.DecOfEncRoundTrip := by
  intro f m st d hlo hhi
  rw [frameOf_enc ((inBand_iff _).mpr ⟨hlo, hhi⟩), rspOf_dec, byte0Bit7_encodeFrame, byte2Bit7_encodeFrame,
    byte3High_encodeFrame]
  refine ⟨stField_decRsp _ _ _ _, decRsp_ifReady _ _ _ _, decRsp_stereo _ _ _ _, decRsp_signal _ _ _ _, ?_⟩
  rw [toInt_decRsp_freq, toNat_pllField_encodeFrame _ _ _ _ hlo hhi]
  exact khzOfPll_pllOfKHz_near f.toNat

end Sys2Proof.Spec
end

section
/-! PROOFS. MOD: its response to an instruction and to a request word, and the bits of a frame it keeps (30_encoding.md R65,
R66; 43_modify.md R160 to R165). -/

namespace Sys2Proof

/-! The mutators by the values of their fields (R66). -/

theorem MutOp.toBits_beq_set (m : MutOp) : (m.toBits == 1#2) = (m == .set) := by
  cases m <;> rfl

/-- The low bits of a field are a shorter field that starts at the same place. -/
theorem extractLsb'_zero_extractLsb' {n start len k : Nat} (h : k ≤ len) (w : BitVec n) :
    (w.extractLsb' start len).extractLsb' 0 k = w.extractLsb' start k := by
  rw [← BitVec.setWidth_eq_extractLsb' h, BitVec.setWidth_extractLsb'_of_le h]

/-! The bytes of a frame operand, by their places in the request word (R64, R65). -/

section
variable (w : ReqWord)

theorem frameField_byte0 : (frameField w).byte0 = w.extractLsb' 32 8 :=
  BitVec.extractLsb'_extractLsb'_of_le (by decide)

theorem frameField_byte1 : (frameField w).byte1 = w.extractLsb' 24 8 :=
  BitVec.extractLsb'_extractLsb'_of_le (by decide)

theorem frameField_byte2 : (frameField w).byte2 = w.extractLsb' 16 8 :=
  BitVec.extractLsb'_extractLsb'_of_le (by decide)

end

namespace Machine

theorem mutatedBit_eq_ite (op : MutOp) (v : Bool) :
    mutatedBit op v = if op.toBits = 1#2 then true else if op.toBits = 2#2 then false else v := by
  cases op <;> rfl

/-- The seven bits below bit 7 are those the mask keeps. -/
theorem and_lowSeven (b : Byte) : b &&& 0x7F#8 = 0#1 ++ b.extractLsb' 0 7 := by
  have hsplit : b.extractLsb' 7 1 ++ b.extractLsb' 0 7 = b := BitVec.extractLsb'_append_extractLsb' (w := 1) (len := 7)
  have hmask : (0x7F#8 : Byte) = 0#1 ++ BitVec.allOnes 7 := by decide
  calc b &&& 0x7F#8
      = (b.extractLsb' 7 1 ++ b.extractLsb' 0 7) &&& (0#1 ++ BitVec.allOnes 7) := congrArg₂ (· &&& ·) hsplit.symm hmask
    _ = 0#1 ++ b.extractLsb' 0 7 := by rw [BitVec.and_append, BitVec.and_zero, BitVec.and_allOnes]

theorem withBit7_and_lowSeven (b : Byte) (v : Bool) : withBit7 b v &&& 0x7F#8 = b &&& 0x7F#8 := by
  rw [and_lowSeven, withBit7_low b v 0 7 le_rfl, and_lowSeven]

theorem mutateBit7_and_lowSeven (op : MutOp) (b : Byte) : mutateBit7 op b &&& 0x7F#8 = b &&& 0x7F#8 := by
  rw [mutateBit7_eq_withBit7, withBit7_and_lowSeven]

/-- `byte0[6:0]`, byte1 and `byte2[6:0]` are kept verbatim (R164). -/
theorem modifyFrame_and_kept (f : Frame) (m st : MutOp) :
    (modifyFrame f m st).toBits &&& 0x7FFF7F0000#40 = f.toBits &&& 0x7FFF7F0000#40 := by
  have hmask (F : Frame) : F.toBits &&& 0x7FFF7F0000#40 =
      Frame.toBits ⟨F.byte0 &&& 0x7F#8, F.byte1 &&& 0xFF#8, F.byte2 &&& 0x7F#8, 0#8, 0#8⟩ :=
    (toBits_and_toBits F ⟨0x7F#8, 0xFF#8, 0x7F#8, 0#8, 0#8⟩).trans (by rw [BitVec.and_zero, BitVec.and_zero])
  have hbyte0 : (modifyFrame f m st).byte0 &&& 0x7F#8 = f.byte0 &&& 0x7F#8 :=
    (mutateBit7_and_lowSeven m _).trans (withBit7_and_lowSeven f.byte0 false)
  have hbyte1 : (modifyFrame f m st).byte1 = f.byte1 := rfl
  have hbyte2 : (modifyFrame f m st).byte2 &&& 0x7F#8 = f.byte2 &&& 0x7F#8 := mutateBit7_and_lowSeven st f.byte2
  rw [hmask, hmask, hbyte0, hbyte1, hbyte2]

end Machine
end Sys2Proof

namespace Sys2Proof.Spec

open Sys2Proof.Machine

theorem frameOf_mod (f : Frame) (m st : MutOp) : frameOf (.mod f m st) = modifyFrame f m st :=
  frameOf_of_rspOf (rspOf_of_exec (by rw [exec_mod, respondOk_eq]))

theorem modFrameRsp_eq_modRsp (f : Frame) (m st : MutOp) : modFrameRsp f m st =
    modRsp (m == .set) (mutatedBit st (f.byte2.getLsbD 7)) (f.byte0.extractLsb' 0 7) f.byte1
      (f.byte2.extractLsb' 0 7) := by
  cases st <;> rfl

/-- R160's response to a frame and mutators that stand in a request word, by the bits of the word. -/
theorem modFrameRsp_frameField {w : ReqWord} {m st : MutOp} (hm : w.extractLsb' 40 2 = m.toBits)
    (hst : w.extractLsb' 42 2 = st.toBits) : modFrameRsp (frameField w) m st =
      modRsp (w.extractLsb' 40 2 == 1#2)
        (if w.extractLsb' 42 2 = 1#2 then true else if w.extractLsb' 42 2 = 2#2 then false else w.getLsbD 23)
        (w.extractLsb' 32 7) (w.extractLsb' 24 8) (w.extractLsb' 16 7) := by
  have hbit : (w.extractLsb' 16 8).getLsbD 7 = w.getLsbD 23 := by simp
  rw [modFrameRsp_eq_modRsp, mutatedBit_eq_ite, frameField_byte0, frameField_byte1, frameField_byte2, hbit,
    extractLsb'_zero_extractLsb' (by decide), extractLsb'_zero_extractLsb' (by decide), hm, hst, MutOp.toBits_beq_set]

/-- Settles O31: the response MOD drives is R160's. -/
theorem modAnswersTheWriteFrame : Obligations.ModAnswersTheWriteFrame :=
  exec_mod_modFrameRsp

/-- Settles O33: at MOD's opcode the two mutator fields alone decide whether the word is refused or runs MOD, under the name
R76 gives it, which does not change its meaning. -/
theorem modWords : Obligations.ModWords := by
  intro w s hop
  by_cases hr : w.extractLsb' 40 2 = 3#2 ∨ w.extractLsb' 42 2 = 3#2
  · rw [if_pos hr]
    exact step_presented_illegal (decode_eq_illegal_iff.mpr (decodeCore_opMod_reserved hop hr)) s
  · obtain ⟨hm, hst⟩ := not_or.mp hr
    obtain ⟨m, st, hm, hst, hcore⟩ := decodeCore_opMod hop hm hst
    have hmod : decode w = .legal (Instr.mod (frameField w) m st).named := decode_eq_legal_iff.mpr ⟨_, hcore, rfl⟩
    rw [if_neg hr, stepRunsTheDecodedInstruction s w _ hmod, exec_named, modAnswersTheWriteFrame,
      modFrameRsp_frameField hm hst]
    rfl

/-- Settles O34: the frame answered is `modifyFrame`, which is a write frame (R164) and touches byte2 by its mutator alone. -/
theorem modFramesKeepTheUnnamedBits : Obligations.ModFramesKeepTheUnnamedBits := by
  intro f m st
  rw [frameOf_mod]
  refine ⟨eq_of_beq (writeFrameOk_modifyFrame f m st), rfl, modifyFrame_and_kept f m st, ?_⟩
  rintro rfl
  rfl

end Sys2Proof.Spec
end

section
/-! PROOFS. The host's conversion of a caller's frequency, and the target of a step (44_host_macros.md R182, R188;
70_reset_and_hazards.md R240). -/

namespace Sys2Proof.Machine

/-- What a request cannot express is brought to the nearer end of what it can (R188, R240). -/
theorem toNat_saturateKHz (i : Int) : (saturateKHz i).toNat = min i.toNat 262143 := by
  have hfreqMax : (Config.freqMax : Int) = 262143 := rfl
  rw [saturateKHz, hfreqMax, BitVec.toNat_ofInt]
  omega

/-! The target of a step: one grid step up, or one down and then never below 0 (R182, D22). -/

theorem toNat_stepTarget_up (cur : Int) : (stepTarget .up cur).toNat = (cur + 100).toNat := rfl

theorem toNat_stepTarget_down (cur : Int) : (stepTarget .down cur).toNat = (cur - 100).toNat := by
  have hgrid : (Config.grid : Int) = 100 := rfl
  rw [stepTarget, hgrid]
  omega

theorem stepTarget_le {cur : Int} (h : 0 ≤ cur) (dir : Direction) : stepTarget dir cur ≤ cur + 100 := by
  cases dir with
  | up => exact le_rfl
  | down =>
    have hgrid : (Config.grid : Int) = 100 := rfl
    rw [stepTarget, hgrid]
    omega

/-- The invariant of the stored frequency, in numbers (R31). -/
theorem SoftState.onGrid_some {soft : SoftState} {c : Nat} (hc : soft.current = some c) (h : soft.onGrid = true) :
    (87500 ≤ c ∧ c ≤ 108000) ∧ c % 100 = 0 := by
  have hgrid : Config.grid = 100 := rfl
  simpa [SoftState.onGrid, hc, inBand_iff, hgrid] using h

/-- Flooring to kHz first loses nothing of the half-up rounding to the grid that follows (R188). -/
theorem floor_add_half_div_grid (y : Rat) : ((y + 50) / 100).floor = (y.floor + 50) / 100 := by
  have hdiv : ⌊(y + 50) / 100⌋ = ⌊y + 50⌋ / 100 := Int.floor_div_natCast (y + 50) 100
  have hadd : ⌊y + 50⌋ = ⌊y⌋ + 50 := Int.floor_add_natCast y 50
  exact hdiv.trans (congrArg (· / 100) hadd)

end Sys2Proof.Machine

namespace Sys2Proof.Spec

open Sys2Proof.Machine

/-- Settles O57: saturation is a clamp, and a floor before the quantiser's own division is absorbed by it; what saturation
cuts off is far above the band, where the quantiser clamps anyway. -/
theorem hostConversionIsOneRounding : Obligations.HostConversionIsOneRounding := by
  refine ⟨fun i => ?saturate, fun x => ?rounding⟩
  case saturate =>
    rw [toNat_saturateKHz]
    omega
  case rounding =>
    rw [gridQuant_eq, khzOfMHz, toNat_saturateKHz, floor_add_half_div_grid]
    generalize (1000 * x).floor = n
    omega

end Sys2Proof.Spec
end

section
/-! PROOFS. The six operations, by the answer of the bus: what each does when its transactions succeed, and that a failure of
the first stops it (44_host_macros.md R180 to R186; 60_exceptions.md R203). -/

namespace Sys2Proof.Spec

open Sys2Proof.Machine

/-- A tune drives its own response, whatever stood on the port. -/
theorem tuned_driveRsp (v : RspWord) (s : State) (q : Nat) : tuned (driveRsp v s) q = tuned s q := by
  simp only [tuned, driveRsp_soft]
  generalize encodeFrame q false (!s.soft.forcedMono) true = F
  cases s
  dsimp only [wrote, driveRsp]

theorem busAnswer_didRead_of_inputs {s : State} {a b : BusAnswer} {rest : List BusAnswer}
    (h : s.busInputs = a :: b :: rest) (F : Frame) : busAnswer (didRead s F) = b :=
  busAnswer_of_inputs (by rw [didRead_busInputs, h, List.tail_cons])

end Sys2Proof.Spec

namespace Sys2Proof.Machine

open Sys2Proof.Spec

theorem decodedKHz_eq_kHzOf (f : Frame) : decodedKHz f = kHzOf (pllField f).toNat :=
  khzOfPll_eq_kHzOf _

/-! The payload of DEC, read back field by field (R67, R140). -/

/-- A field of the payload stands in the response word at the same place (R61). -/
theorem extractLsb'_responseWord {start len : Nat} (h : start + len ≤ 44) (st : Status) (p : Payload) :
    (responseWord st p).extractLsb' start len = p.extractLsb' start len :=
  BitVec.extractLsb'_append_eq_of_add_le h

section
variable (f : Frame)

theorem payloadIfReady_statusPayload : payloadIfReady (statusPayload f) = byte0Bit7 f := by
  have hbit := responseWord_getLsbD .ok (statusPayload f) 24
  rw [responseWord_statusPayload, decRsp_ifReady] at hbit
  exact hbit.symm

theorem payloadStereo_statusPayload : payloadStereo (statusPayload f) = byte2Bit7 f := by
  have hbit := responseWord_getLsbD .ok (statusPayload f) 23
  rw [responseWord_statusPayload, decRsp_stereo] at hbit
  exact hbit.symm

theorem payloadSignal_statusPayload : payloadSignal (statusPayload f) = byte3High f := by
  rw [payloadSignal, ← extractLsb'_responseWord (by decide) .ok, responseWord_statusPayload, decRsp_signal]

theorem int19_payloadFreqS_statusPayload : int19 (payloadFreqS (statusPayload f)) = decodedKHz f := by
  rw [int19, payloadFreqS, ← extractLsb'_responseWord (by decide) .ok, responseWord_statusPayload, toInt_decRsp_freq,
    decodedKHz]

end

section
variable {s : State} {raw : Frame}

/-! Success. -/

theorem writeTune_done (h : busAnswer s = .done raw) (f : FreqKHz) :
    writeTune f s = .next (tuned s (gridQuant f.toNat)) := by
  obtain ⟨_, -, e⟩ | ⟨c, left, v, hfailed, -⟩ := writeTune_cases answer_encode f s
  · exact e
  · cases h.symm.trans hfailed

theorem hostStep_some {c : Nat} (h : s.soft.current = some c) (dir : Direction) :
    hostStep dir s = writeTune (saturateKHz (stepTarget dir c)) s := by
  simp only [hostStep, h]

/-- Without a stored frequency, STEP tunes from the decoded frequency of the frame it reads, a negative one counting as 0. -/
theorem hostStep_none (hcur : s.soft.current = none) (h : busAnswer s = .done raw) (dir : Direction) :
    ∃ v, hostStep dir s = writeTune (saturateKHz (stepTarget dir (max (decodedKHz (readFrame s.chip raw)) 0)))
      (driveRsp v (didRead s (readFrame s.chip raw))) := by
  obtain ⟨c, hsome, -⟩ | ⟨c, left, -, hfailed, -⟩ | ⟨raw', -, hdone, e⟩ := hostStep_cases answer_encode dir s
  · cases hcur.symm.trans hsome
  · cases h.symm.trans hfailed
  · cases h.symm.trans hdone
    rw [int19_payloadFreqS_statusPayload, respondOk_eq] at e
    exact ⟨_, e⟩

theorem modifyWrite_done {raw' : Frame} {rest : List BusAnswer} (h : s.busInputs = .done raw :: .done raw' :: rest)
    (m st : MutOp) (update : SoftState → SoftState) : modifyWrite m st update s =
      .next (wrote (didRead s (readFrame s.chip raw)) (modifyFrame (readFrame s.chip raw) m st) (update s.soft) .done) := by
  have hread : busAnswer s = .done raw := busAnswer_of_inputs h
  obtain ⟨c, left, hfailed, -⟩ | ⟨_, c, left, v, -, hfailed, -⟩ | ⟨_, _, hdone, -, e⟩ :=
    modifyWrite_cases answer_encode m st update s
  · cases hread.symm.trans hfailed
  · cases (busAnswer_didRead_of_inputs h _).symm.trans hfailed
  · cases hread.symm.trans hdone
    exact e

/-- READ_STATUS reports the fields DEC reads, the soft mute flag and the raw bytes (R186). -/
theorem hostReadStatus_done (h : busAnswer s = .done raw) : hostReadStatus s =
    .next (returning (.status ⟨byte0Bit7 (readFrame s.chip raw), byte2Bit7 (readFrame s.chip raw),
        byte3High (readFrame s.chip raw), decodedKHz (readFrame s.chip raw), s.soft.muted, readFrame s.chip raw⟩)
      (driveRsp (responseWord .ok (statusPayload (readFrame s.chip raw))) (didRead s (readFrame s.chip raw)))) := by
  obtain ⟨c, left, hfailed, -⟩ | ⟨raw', hdone, e⟩ := hostReadStatus_cases answer_encode s
  · cases h.symm.trans hfailed
  · cases h.symm.trans hdone
    simp only [payloadIfReady_statusPayload, payloadStereo_statusPayload, payloadSignal_statusPayload,
      int19_payloadFreqS_statusPayload, respondOk_eq] at e
    exact e

/-! Failure of the first transaction. -/

/-- The operation has stopped with this bus error: the soft state and the record of transfers are as before (R180 b, R203). -/
def StoppedBy (c : BusError) (s : State) (o : Result) : Prop :=
  ∃ t, o = .next t ∧ t.reply = .busError c ∧ t.soft = s.soft ∧ t.wire = s.wire

variable {c : BusError} {left : Frame} (h : busAnswer s = .failed c left)
include h

theorem busRead_stopped (next : Frame → State → Result) : StoppedBy c s (busRead s next) :=
  ⟨_, busRead_failed h next, returning_reply _ _, by simp, by simp⟩

theorem writeTune_failed (f : FreqKHz) : ∃ v, writeTune f s = .next (returning (.busError c)
    { tickBus (driveRsp v s) with chip := { reg := left, standing := .unknown } }) := by
  obtain ⟨raw, hdone, -⟩ | ⟨_, _, v, hfailed, e⟩ := writeTune_cases answer_encode f s
  · cases h.symm.trans hdone
  · cases h.symm.trans hfailed
    exact ⟨v, e⟩

theorem writeTune_stopped (f : FreqKHz) : StoppedBy c s (writeTune f s) := by
  obtain ⟨v, e⟩ := writeTune_failed h f
  exact ⟨_, e, by simp, by simp, by simp⟩

theorem hostStep_stopped (dir : Direction) : StoppedBy c s (hostStep dir s) := by
  cases hcur : s.soft.current with
  | some cur =>
    rw [hostStep_some hcur]
    exact writeTune_stopped h _
  | none =>
    simp only [hostStep, hcur]
    exact busRead_stopped h _

theorem modifyWrite_stopped (m st : MutOp) (update : SoftState → SoftState) :
    StoppedBy c s (modifyWrite m st update s) :=
  busRead_stopped h _

theorem hostReadStatus_stopped : StoppedBy c s (hostReadStatus s) :=
  busRead_stopped h _

theorem perform_stopped {a : HostAction} (ha : isOperation a = true) : StoppedBy c s (perform a s) := by
  cases a with
  | tuneTo freq =>
    cases freq with
    | mhz x => exact writeTune_stopped h _
    | notFinite => cases ha
  | stepTune dir => exact hostStep_stopped h dir
  | mute => exact modifyWrite_stopped h _ _ _
  | unmute => exact modifyWrite_stopped h _ _ _
  | setMono flag => exact modifyWrite_stopped h _ _ _
  | readStatus => exact hostReadStatus_stopped h
  | _ => cases ha

end

end Sys2Proof.Machine

namespace Sys2Proof.Spec

open Sys2Proof.Machine

/-- Settles O45: an operation begins with a read or, to tune, a write, and stops where that fails. -/
theorem busErrorStopsTheOperation : Obligations.BusErrorStopsTheOperation :=
  fun _ _ _ _ ha h => perform_stopped h ha

/-- Settles O40: TUNE_TO is one write, of the quantised frequency. -/
theorem tuneToCommitsTheClampedFrequency : Obligations.TuneToCommitsTheClampedFrequency := by
  intro x s
  refine ⟨fun raw h => ?done, fun c left h => ?failed⟩
  case done => rw [← gridQuant_eq_gridKHz]; exact writeTune_done h _
  case failed =>
    obtain ⟨v, e⟩ := writeTune_failed h (khzOfMHz x)
    exact ⟨_, e, by simp, by simp, by simp, by simp⟩

/-- Settles O41: a grid step from a grid frequency of the band is on the grid, so quantising it only clamps it. -/
theorem stepMovesAndSaturates : Obligations.StepMovesAndSaturates := by
  intro dir c raw s hcur hgrid hbus
  obtain ⟨⟨hlo, hhi⟩, hmod⟩ := SoftState.onGrid_some hcur hgrid
  rw [perform, hostStep_some hcur, writeTune_done hbus, toNat_saturateKHz, gridQuant_eq]
  congr 2
  cases dir with
  | up =>
    show _ = min (c + 100) 108000
    rw [toNat_stepTarget_up]
    omega
  | down =>
    show _ = max (c - 100) 87500
    rw [toNat_stepTarget_down]
    omega

/-- Settles O42: the seed is far below what a request can express, so saturation leaves the target alone. -/
theorem stepSeedsFromAStatusRead : Obligations.StepSeedsFromAStatusRead := by
  intro dir raw raw' rest s hcur hbus
  dsimp only
  rw [← decodedKHz_eq_kHzOf]
  obtain ⟨v, e⟩ := hostStep_none hcur (busAnswer_of_inputs hbus) dir
  obtain ⟨-, hhi⟩ := decodedKHz_mem_range (readFrame s.chip raw)
  have hwrite : busAnswer (driveRsp v (didRead s (readFrame s.chip raw))) = .done raw' := by
    rw [busAnswer_driveRsp, busAnswer_didRead_of_inputs hbus]
  generalize hseed : max (decodedKHz (readFrame s.chip raw)) 0 = cur at e ⊢
  have htarget : (saturateKHz (stepTarget dir cur)).toNat = (stepTarget dir cur).toNat := by
    have hle : stepTarget dir cur ≤ cur + 100 := stepTarget_le (by omega) dir
    rw [toNat_saturateKHz]
    omega
  rw [perform, e, writeTune_done hwrite, tuned_driveRsp, htarget, gridQuant_eq_gridKHz]
  cases dir with
  | up => rw [toNat_stepTarget_up]
  | down => rw [toNat_stepTarget_down]

/-- Settles O43: each of the three is a read-modify-write with its own mutator and its own flag. -/
theorem modifyWritesSetTheirFlag : Obligations.ModifyWritesSetTheirFlag :=
  fun _ _ _ _ _ h => ⟨modifyWrite_done h _ _ _, modifyWrite_done h _ _ _, modifyWrite_done h _ _ _⟩

/-- Settles O44: the response DEC drives is R140's, and the report reads it back. -/
theorem readStatusMergesTheSoftMute : Obligations.ReadStatusMergesTheSoftMute := by
  refine fun s => ⟨fun raw h => ?done, fun c left h => perform_stopped h rfl⟩
  case done =>
    rw [perform, hostReadStatus_done h, responseWord_statusPayload, decodedKHz_eq_kHzOf]
    rfl

end Sys2Proof.Spec
end

section
/-! PROOFS. What a host action does to the soft state and to the record of transfers, said once (44_host_macros.md R180 d,
R187, R191). -/

namespace Sys2Proof.Machine

open Sys2Proof.Spec

/-- So far nothing was written: the soft state is as before, and the record of transfers has grown by reads at most. -/
def ReadAtMost (s u : State) : Prop :=
  u.soft = s.soft ∧ ∃ reads, u.wire = reads ++ s.wire ∧ ∀ x ∈ reads, ∃ bytes, x = .read Config.chipAddr bytes

theorem ReadAtMost.of_same {s u : State} (hsoft : u.soft = s.soft) (hwire : u.wire = s.wire) : ReadAtMost s u :=
  ⟨hsoft, [], hwire, fun _ hx => absurd hx List.not_mem_nil⟩

theorem ReadAtMost.of_read {s u : State} {bytes : List Byte} (hsoft : u.soft = s.soft)
    (hwire : u.wire = .read Config.chipAddr bytes :: s.wire) : ReadAtMost s u :=
  ⟨hsoft, [.read Config.chipAddr bytes], hwire, by simp⟩

theorem ReadAtMost.congr {s u v : State} (h : ReadAtMost s u) (hsoft : v.soft = u.soft) (hwire : v.wire = u.wire) :
    ReadAtMost s v := by
  rwa [ReadAtMost, hsoft, hwire]

/-- Which action sets which of the two flags, and leaves the rest of the soft state (R183 to R185). -/
inductive SetsFlag : HostAction → SoftState → SoftState → Prop
  | mute (x : SoftState) : SetsFlag .mute x { x with muted := true }
  | unmute (x : SoftState) : SetsFlag .unmute x { x with muted := false }
  | setMono (x : SoftState) (flag : Bool) : SetsFlag (.setMono flag) x { x with forcedMono := flag }

/-- The ways a host action that goes on can have treated the soft state and the record of transfers
(`perform_softAndWire` says that there is no other). -/
inductive SoftAndWire (a : HostAction) (s t : State) : Prop
  /-- it completed no write -/
  | unwritten (all : ReadAtMost s t)
  /-- it completed a tune, after a read at most -/
  | tuned (u : State) (f : Nat) (tunes : (∃ freq, a = .tuneTo freq) ∨ ∃ dir, a = .stepTune dir) (before : ReadAtMost s u)
      (after : t = Spec.tuned u (gridQuant f))
  /-- it completed a modify-write, after a read at most -/
  | modified (u : State) (f : Frame) (muteOp stereoOp : MutOp) (soft : SoftState) (flag : SetsFlag a s.soft soft)
      (before : ReadAtMost s u) (after : t = wrote u (modifyFrame f muteOp stereoOp) soft .done)
  /-- it was a bare write -/
  | bare (notWhole : a.whole = false) (soft : t.soft = s.soft)
  /-- it was a restart of the host (R222) -/
  | restarted (restart : a = .restart) (wire : t.wire = s.wire)

section
variable {a : HostAction} {s t : State}

theorem writeTune_softAndWire {u : State} {f : FreqKHz} (tunes : (∃ freq, a = .tuneTo freq) ∨ ∃ dir, a = .stepTune dir)
    (before : ReadAtMost s u) (h : writeTune f u = .next t) : SoftAndWire a s t := by
  obtain ⟨raw, -, e⟩ | ⟨c, left, v, -, e⟩ := writeTune_cases answer_encode f u <;> cases e.symm.trans h
  · exact .tuned u f.toNat tunes before rfl
  · exact .unwritten (before.congr (by simp) (by simp))

theorem hostStep_softAndWire {dir : Direction} (h : hostStep dir s = .next t) : SoftAndWire (.stepTune dir) s t := by
  obtain ⟨cur, -, e⟩ | ⟨c, left, -, -, e⟩ | ⟨raw, -, -, e⟩ := hostStep_cases answer_encode dir s
  · exact writeTune_softAndWire (.inr ⟨dir, rfl⟩) (.of_same rfl rfl) (e.symm.trans h)
  · cases e.symm.trans h
    exact .unwritten (.of_same (by simp) (by simp))
  · rw [respondOk_eq] at e
    have before (v : RspWord) : ReadAtMost s (driveRsp v (didRead s (readFrame s.chip raw))) :=
      .of_read (by simp) (by rw [driveRsp_wire, didRead_wire])
    exact writeTune_softAndWire (.inr ⟨dir, rfl⟩) (before _) (e.symm.trans h)

theorem modifyWrite_softAndWire {m st : MutOp} {update : SoftState → SoftState} (flag : SetsFlag a s.soft (update s.soft))
    (h : modifyWrite m st update s = .next t) : SoftAndWire a s t := by
  obtain ⟨c, left, -, e⟩ | ⟨raw, c, left, v, -, -, e⟩ | ⟨raw, raw', -, -, e⟩ :=
    modifyWrite_cases answer_encode m st update s <;> cases e.symm.trans h
  · exact .unwritten (.of_same (by simp) (by simp))
  · exact .unwritten (.of_read (by simp) rfl)
  · exact .modified _ _ m st _ flag (.of_read (didRead_soft _ _) (didRead_wire _ _)) rfl

theorem hostReadStatus_softAndWire (h : hostReadStatus s = .next t) : SoftAndWire a s t := by
  obtain ⟨c, left, -, e⟩ | ⟨raw, -, e⟩ := hostReadStatus_cases answer_encode s <;> cases e.symm.trans h
  · exact .unwritten (.of_same (by simp) (by simp))
  · rw [respondOk_eq]
    exact .unwritten (.of_read (by simp) rfl)

theorem hostRequest_softAndWire {w : ReqWord} (h : hostRequest w s = .next t) : SoftAndWire a s t := by
  obtain ⟨p, e⟩ | ⟨st, p, -, e⟩ := hostRequest_cases w s <;> cases e.symm.trans h <;>
    exact .unwritten (.of_same (by simp) (by simp))

theorem performBusRead_softAndWire (h : perform .busRead s = .next t) : SoftAndWire a s t := by
  cases ha : busAnswer s with
  | done raw =>
    cases (perform_busRead_done ha).symm.trans h
    exact .unwritten (.of_read rfl rfl)
  | failed c left =>
    simp only [perform, busRead_failed ha] at h
    cases h
    exact .unwritten (.of_same (by simp) (by simp))

theorem performBusWrite_softAndWire {f : Frame} {kind : WriteKind} (h : perform (.busWrite f kind) s = .next t) :
    SoftAndWire (.busWrite f kind) s t := by
  cases ha : busAnswer s with
  | done raw =>
    cases (perform_busWrite_done ha f kind).symm.trans h
    exact .bare rfl (by simp)
  | failed c left =>
    cases (perform_busWrite_failed ha f kind).symm.trans h
    exact .bare rfl (by simp)

/-- All a host action that goes on can do to the soft state and the record of transfers. -/
theorem perform_softAndWire (h : perform a s = .next t) : SoftAndWire a s t := by
  cases a with
  | request w => exact hostRequest_softAndWire h
  | busRead => exact performBusRead_softAndWire h
  | busWrite f kind => exact performBusWrite_softAndWire h
  | settle ms =>
    cases h
    exact .unwritten (.of_same (settle_soft ms s) (settle_wire ms s))
  | tuneTo freq =>
    cases freq with
    | mhz x => exact writeTune_softAndWire (.inl ⟨_, rfl⟩) (.of_same rfl rfl) h
    | notFinite => cases h
  | stepTune dir => exact hostStep_softAndWire h
  | mute => exact modifyWrite_softAndWire (.mute _) h
  | unmute => exact modifyWrite_softAndWire (.unmute _) h
  | setMono flag => exact modifyWrite_softAndWire (.setMono _ flag) h
  | readStatus => exact hostReadStatus_softAndWire h
  | restart =>
    cases h
    exact .restarted rfl rfl
  | chipPowerOn =>
    cases h
    exact .unwritten (.of_same rfl rfl)
  | codecReset =>
    cases h
    exact .unwritten (.of_same rfl rfl)

end

end Sys2Proof.Machine

namespace Sys2Proof.Spec

open Sys2Proof.Machine

/-- Settles O47: only a completed tune stores a frequency, and only a completed modify-write sets a flag, its own. -/
theorem softStateTransitions : Obligations.SoftStateTransitions := by
  intro a s t h hrestart
  cases perform_softAndWire h with
  | unwritten all => simp [all.1]
  | tuned u f tunes before after =>
    rw [after, tuned_soft, before.1]
    exact ⟨fun _ => tunes, fun hne => absurd rfl hne, fun hne => absurd rfl hne⟩
  | modified u f m st soft flag before after =>
    rw [after, wrote_soft]
    cases flag <;> simp
  | bare _ soft => simp [soft]
  | restarted restart _ => exact absurd restart hrestart

/-- Settles O50: the one write of a whole action is a tune's ENC frame of a quantised, so in-band, frequency, or the MOD
frame of a modify-write. -/
theorem operationsWriteOnlyCodecFrames : Obligations.OperationsWriteOnlyCodecFrames := by
  intro a s t hwhole h
  cases perform_softAndWire h with
  | unwritten all =>
    obtain ⟨-, reads, hwire, hreads⟩ := all
    exact ⟨reads, hwire, fun x hx => .inl (hreads x hx)⟩
  | tuned u f _ before after =>
    obtain ⟨-, reads, hwire, hreads⟩ := before
    refine ⟨_ :: reads, by rw [after, tuned_wire, hwire, List.cons_append], ?_⟩
    rw [List.forall_mem_cons]
    exact ⟨.inr (.inl ⟨_, _, inBand_gridQuant f, rfl⟩), fun x hx => .inl (hreads x hx)⟩
  | modified u f m st soft _ before after =>
    obtain ⟨-, reads, hwire, hreads⟩ := before
    refine ⟨_ :: reads, by rw [after, wrote_wire, hwire, List.cons_append], ?_⟩
    rw [List.forall_mem_cons]
    exact ⟨.inr (.inr ⟨f, m, st, rfl⟩), fun x hx => .inl (hreads x hx)⟩
  | bare notWhole _ => simp [notWhole] at hwhole
  | restarted _ wire => exact ⟨[], wire, fun _ hx => absurd hx List.not_mem_nil⟩

end Sys2Proof.Spec
end

section
/-! PROOFS. The hazards: what a tune or a modify-write that completes has left in the chip's register
(44_host_macros.md R181 to R185; 70_reset_and_hazards.md R236 to R239). -/

namespace Sys2Proof.Machine

open Sys2Proof.Spec

/-! The fields of a MOD frame (R161, R162, R164, R166). -/

section
variable (f : Frame) (m st : MutOp)

theorem byte0_modifyFrame : (modifyFrame f m st).byte0 = withBit7 f.byte0 (m == .set) :=
  mutateBit7_cleared m f.byte0

theorem byte0Bit7_modifyFrame : byte0Bit7 (modifyFrame f m st) = (m == .set) := by
  rw [byte0Bit7, byte0_modifyFrame, withBit7_getLsbD_seven]

theorem byte2Bit7_modifyFrame : byte2Bit7 (modifyFrame f m st) = mutatedBit st (byte2Bit7 f) :=
  (congrArg (BitVec.getLsbD · 7) (mutateBit7_eq_withBit7 st f.byte2)).trans (withBit7_getLsbD_seven _ _)

theorem pllField_modifyFrame : pllField (modifyFrame f m st) = pllField f := by
  have hbyte1 : (modifyFrame f m st).byte1 = f.byte1 := rfl
  rw [pllField, byte0_modifyFrame, withBit7_low _ _ 0 6 (by decide), hbyte1, pllField]

end

section
variable {s t : State}

/-- What a tune leaves when it returns a frequency. -/
theorem writeTune_committed {f : FreqKHz} {q : Nat} (h : writeTune f s = .next t) (hreply : t.reply = .committed q) :
    t = tuned s (gridQuant f.toNat) := by
  obtain ⟨raw, -, e⟩ | ⟨c, left, v, -, e⟩ := writeTune_cases answer_encode f s <;> cases e.symm.trans h
  · rfl
  · cases hreply

/-- An operation that returns a frequency has tuned, a read of its own before it leaving the soft state alone. -/
theorem perform_committed {a : HostAction} {q : Nat} (ha : (∃ f, a = .tuneTo f) ∨ ∃ d, a = .stepTune d)
    (h : perform a s = .next t) (hreply : t.reply = .committed q) :
    ∃ u f, u.soft = s.soft ∧ t = tuned u (gridQuant f) := by
  obtain ⟨freq, rfl⟩ | ⟨dir, rfl⟩ := ha
  · cases freq with
    | mhz x => exact ⟨s, _, rfl, writeTune_committed h hreply⟩
    | notFinite => cases h
  · obtain ⟨cur, -, e⟩ | ⟨c, left, -, -, e⟩ | ⟨raw, -, -, e⟩ := hostStep_cases answer_encode dir s
    · exact ⟨s, _, rfl, writeTune_committed (e.symm.trans h) hreply⟩
    · cases e.symm.trans h
      cases hreply
    · rw [respondOk_eq] at e
      exact ⟨_, _, by simp, writeTune_committed (e.symm.trans h) hreply⟩

/-- What a modify-write leaves when it completes. -/
theorem modifyWrite_completed {m st : MutOp} {update : SoftState → SoftState} (h : modifyWrite m st update s = .next t)
    (hreply : t.reply = .done) : ∃ r, t = wrote (didRead s r) (modifyFrame r m st) (update s.soft) .done := by
  obtain ⟨c, left, -, e⟩ | ⟨raw, c, left, v, -, -, e⟩ | ⟨raw, raw', -, -, e⟩ :=
    modifyWrite_cases answer_encode m st update s <;> cases e.symm.trans h
  · cases hreply
  · cases hreply
  · exact ⟨_, rfl⟩

end

end Sys2Proof.Machine

namespace Sys2Proof.Spec

open Sys2Proof.Machine

/-- Settles O51: the frame of a tune is ENC's with `mute = 0`, and a tune stores its frequency alone. -/
theorem tuningUnmutesTheChip : Obligations.TuningUnmutesTheChip := by
  intro a q s t ha h hreply
  obtain ⟨u, f, hsoft, rfl⟩ := perform_committed ha h hreply
  rw [tuned_chip, tuned_soft, hsoft]
  exact ⟨byte0Bit7_encodeFrame _ _ _ _, byte2Bit7_encodeFrame _ _ _ _, rfl⟩

/-- Settles O52: MOD clears the mute bit that SET_MONO's mutator leaves alone, and forces 50 µs. -/
theorem setMonoUnmutesTheChip : Obligations.SetMonoUnmutesTheChip := by
  intro flag s t h hreply
  obtain ⟨r, rfl⟩ := modifyWrite_completed h hreply
  rw [wrote_chip, wrote_soft]
  refine ⟨byte0Bit7_modifyFrame _ _ _, ?stereo, rfl, rfl, rfl⟩
  case stereo =>
    rw [byte2Bit7_modifyFrame]
    cases flag <;> rfl

/-- MUTE and UNMUTE are modify-writes that leave the stereo bit alone (R183, R184). -/
theorem perform_muteOrUnmute (m : Bool) (s : State) : perform (if m then .mute else .unmute) s =
    modifyWrite (if m then .set else .clr) .nop (fun soft => { soft with muted := m }) s := by
  cases m <;> rfl

/-- Settles O53: MOD keeps every bit of the frame read but the mute bit, byte3 and byte4, since NOP is the stereo mutator. -/
theorem muteCopiesStereoDetected : Obligations.MuteCopiesStereoDetected := by
  intro m s t h hreply
  rw [perform_muteOrUnmute] at h
  obtain ⟨r, rfl⟩ := modifyWrite_completed h hreply
  simp only [wrote_chip, wrote_wire, didRead_wire]
  refine ⟨r, rfl, ?mute, rfl, pllField_modifyFrame _ _ _, ?bit6, rfl, rfl⟩
  case mute =>
    rw [byte0Bit7_modifyFrame]
    cases m <;> rfl
  case bit6 => rw [byte0_modifyFrame, withBit7_getLsbD, if_pos (by decide)]

end Sys2Proof.Spec
end

section
/-! PROOFS. Runs of host operations on a bus that does not fail, step by step (44_host_macros.md R189, R192;
20_memory.md R48, R51). -/

namespace Sys2Proof.Machine

open Sys2Proof.Spec

/-- What a run of host operations depends on beside the chip: nothing at the port, these operations ahead, these bus answers
to come, this soft state. -/
structure HostAt (s : State) (agenda : List HostAction) (inputs : List BusAnswer) (soft : SoftState) : Prop where
  req : s.req = none
  agenda : s.agenda = agenda
  inputs : s.busInputs = inputs
  soft : s.soft = soft

/-- The chip is settled on a frame with this PLL word, which is what the next read promises (R51). -/
def Chip.SettledOn (c : Chip) (p : PllWord) : Prop := c.standing = .settled ∧ pllField c.reg = p

theorem Chip.SettledOn.pllField_readFrame {c : Chip} {p : PllWord} (h : c.SettledOn p) (raw : Frame) :
    pllField (readFrame c raw) = p := by
  obtain ⟨hsettled, hpll⟩ := h
  rw [readFrame_settled hsettled, pllField_withPll, hpll]

section
variable {s : State} {rest : List HostAction} {raw raw' : Frame} {inputs : List BusAnswer} {soft : SoftState}

/-- A TUNE_TO leaves the chip settled on the committed frequency, stores it, and is one transfer (R181). -/
theorem step_tuneTo {x : Rat} (h : HostAt s (.tuneTo (.mhz x) :: rest) (.done raw :: inputs) soft) :
    ∃ t, step s = .next t ∧ HostAt t rest inputs { soft with current := some (gridQuant (khzOfMHz x).toNat) } ∧
      t.chip.SettledOn (BitVec.ofNat 14 (pllOfKHz (gridQuant (khzOfMHz x).toNat))) ∧
      t.wire = .write Config.chipAddr
        (busBytes (encodeFrame (gridQuant (khzOfMHz x).toNat) false (!soft.forcedMono) true)) :: s.wire := by
  obtain ⟨hreq, hagenda, hinputs, rfl⟩ := h
  have hbus : busAnswer { s with agenda := rest } = .done raw := busAnswer_of_inputs hinputs
  refine ⟨_, (step_hostAction hreq hagenda).trans (writeTune_done hbus _), ⟨?_, ?_, ?_, ?_⟩, ⟨?_, ?_⟩, ?_⟩
  · rw [tuned_req, hreq]
  · rw [tuned_agenda]
  · rw [tuned_busInputs, hinputs, List.tail_cons]
  · rw [tuned_soft]
  · rw [tuned_chip]
  · rw [tuned_chip, pllField_encodeFrame]
  · rw [tuned_wire]

/-- A modify-write updates the soft state and leaves the chip settled on the PLL word it was settled on, in a MOD frame
(R166, R183 to R185). -/
theorem step_modifyWrite {a : HostAction} {m st : MutOp} {update : SoftState → SoftState} {p : PllWord}
    (ha : ∀ u, perform a u = modifyWrite m st update u)
    (h : HostAt s (a :: rest) (.done raw :: .done raw' :: inputs) soft) (hchip : s.chip.SettledOn p) :
    ∃ t r, step s = .next t ∧ HostAt t rest inputs (update soft) ∧ t.chip.SettledOn p ∧
      t.chip.reg = modifyFrame r m st := by
  obtain ⟨hreq, hagenda, hinputs, rfl⟩ := h
  have hbus : State.busInputs { s with agenda := rest } = .done raw :: .done raw' :: inputs := hinputs
  refine ⟨_, readFrame s.chip raw, (step_hostAction hreq hagenda).trans ((ha _).trans (modifyWrite_done hbus _ _ _)),
    ⟨?_, ?_, ?_, ?_⟩, ⟨?_, ?_⟩, ?_⟩
  · rw [wrote_req, didRead_req, hreq]
  · rw [wrote_agenda, didRead_agenda]
  · rw [wrote_busInputs, didRead_busInputs, hinputs, List.tail_cons, List.tail_cons]
  · rw [wrote_soft]
  · rw [wrote_chip]
  · rw [wrote_chip, pllField_modifyFrame, hchip.pllField_readFrame]
  · rw [wrote_chip]

/-- A READ_STATUS reports the frequency of the PLL word the chip is settled on, and the soft mute flag; it changes neither
the chip nor the soft state (R186). -/
theorem step_readStatus {p : PllWord} (h : HostAt s (.readStatus :: rest) (.done raw :: inputs) soft)
    (hchip : s.chip.SettledOn p) :
    ∃ t report, step s = .next t ∧ t.reply = .status report ∧ report.freqKHz = khzOfPll p.toNat ∧
      report.muted = soft.muted ∧ t.chip = s.chip ∧ t.soft = soft := by
  obtain ⟨hreq, hagenda, hinputs, rfl⟩ := h
  have hbus : busAnswer { s with agenda := rest } = .done raw := busAnswer_of_inputs hinputs
  refine ⟨_, _, (step_hostAction hreq hagenda).trans (hostReadStatus_done hbus), returning_reply _ _, ?_, rfl, ?_, ?_⟩
  · rw [decodedKHz, hchip.pllField_readFrame]
  · rw [returning_chip, driveRsp_chip, didRead_chip]
  · rw [returning_soft, driveRsp_soft, didRead_soft]

end

end Sys2Proof.Machine

namespace Sys2Proof.Spec

open Sys2Proof.Machine

/-- A run goes on from where its first step leads. -/
theorem run_succ {s t : State} (h : step s = .next t) (k : Nat) : core.run (k + 1) s = core.run k t := by
  have hstep : core.step s = .next t := h
  simp only [Host.Core.run, hstep]

/-- 14 bits hold the PLL word of a frequency that was tuned to (R105). -/
theorem toNat_pllOfKHz_gridQuant (f : Nat) :
    (BitVec.ofNat 14 (pllOfKHz (gridQuant f))).toNat = pllOfKHz (gridQuant f) := by
  obtain ⟨hlo, hhi⟩ := gridQuant_mem_band f
  rw [← pllField_encodeFrame _ false false true, toNat_pllField_encodeFrame _ _ _ _ hlo hhi]

/-- Settles O54: MUTE and UNMUTE keep the PLL word that TUNE_TO settled, whose frequency lies at most 8 kHz below (R106),
and UNMUTE clears the soft flag. -/
theorem muteUnmutePreserveFrequency : Obligations.MuteUnmutePreserveFrequency := by
  intro x a b c d e f rest s hreq hagenda hinputs
  obtain ⟨s₁, hstep₁, h₁, hchip₁, -⟩ := step_tuneTo ⟨hreq, hagenda, hinputs, rfl⟩
  obtain ⟨s₂, -, hstep₂, h₂, hchip₂, -⟩ := step_modifyWrite (a := .mute) (fun _ => rfl) h₁ hchip₁
  obtain ⟨s₃, -, hstep₃, h₃, hchip₃, -⟩ := step_modifyWrite (a := .unmute) (fun _ => rfl) h₂ hchip₂
  obtain ⟨t, report, hstep₄, hreply, hfreq, hmuted, -, hsoft⟩ := step_readStatus h₃ hchip₃
  have hrun : core.run 4 s = .next t := by
    rw [run_succ hstep₁, run_succ hstep₂, run_succ hstep₃, run_succ hstep₄]
    rfl
  obtain ⟨hlo, hhi⟩ := khzOfPll_pllOfKHz_near (gridQuant (khzOfMHz x).toNat)
  refine ⟨t, report, hrun, hreply, hmuted, ?_⟩
  rw [hsoft, hfreq, toNat_pllOfKHz_gridQuant, ← gridQuant_eq_gridKHz]
  exact ⟨rfl, hlo, by omega⟩

/-- Settles O55: SET_MONO keeps the PLL word that TUNE_TO settled, and clears STEREO_EN in the frame it writes. -/
theorem monoTogglingKeepsFrequency : Obligations.MonoTogglingKeepsFrequency := by
  intro x a b c d rest s hreq hagenda hinputs
  obtain ⟨s₁, hstep₁, h₁, hchip₁, -⟩ := step_tuneTo ⟨hreq, hagenda, hinputs, rfl⟩
  obtain ⟨s₂, r, hstep₂, h₂, hchip₂, hreg⟩ := step_modifyWrite (a := .setMono true) (fun _ => rfl) h₁ hchip₁
  obtain ⟨t, report, hstep₃, hreply, hfreq, -, hchip, hsoft⟩ := step_readStatus h₂ hchip₂
  have hrun : core.run 3 s = .next t := by
    rw [run_succ hstep₁, run_succ hstep₂, run_succ hstep₃]
    rfl
  refine ⟨t, report, hrun, hreply, ?stereo, ?mono, ?freq⟩
  case stereo => rw [hchip, hreg, byte2Bit7_modifyFrame]; rfl
  case mono => rw [hsoft]
  case freq =>
    rw [hfreq, toNat_pllOfKHz_gridQuant, khzOfPll_eq_kHzOf, pllOfKHz_eq_pllOf, gridQuant_eq_gridKHz]

/-- Settles O56: by induction on the calls; each takes one success off the bus, adds its frame to the record, and leaves the
mono flag, which the next frame depends on. -/
theorem tuneToCallsAreWholeTransactions : Obligations.TuneToCallsAreWholeTransactions := by
  intro xs
  induction xs with
  | nil =>
    intro s _ hagenda _ _
    exact ⟨s, rfl, hagenda, rfl⟩
  | cons x xs ih =>
    intro s hreq hagenda hall hlength
    cases hinputs : s.busInputs with
    | nil => simp [hinputs] at hlength
    | cons answer inputs =>
      rw [hinputs, List.all_cons, Bool.and_eq_true] at hall
      rw [hinputs, List.length_cons, List.length_cons, Nat.add_le_add_iff_right] at hlength
      obtain ⟨hanswer, hall⟩ := hall
      cases answer with
      | failed cause left => cases hanswer
      | done raw =>
        obtain ⟨s₁, hstep, h₁, -, hwire₁⟩ := step_tuneTo ⟨hreq, hagenda, hinputs, rfl⟩
        obtain ⟨hreq₁, hagenda₁, hinputs₁, hsoft₁⟩ := h₁
        obtain ⟨t, hrun, hdone, hwire⟩ := ih s₁ hreq₁ hagenda₁ (hinputs₁ ▸ hall) (hinputs₁ ▸ hlength)
        refine ⟨t, (run_succ hstep _).trans hrun, hdone, ?_⟩
        rw [hwire, hwire₁, hsoft₁, List.map_cons, List.reverse_cons, List.append_assoc, List.singleton_append,
          gridQuant_eq_gridKHz]

end Sys2Proof.Spec
end

section
/-! PROOFS. The consequences the spec derives: a grid frequency comes back from the two quantisers (40_quantizer.md R106), and
a MOD keeps the tuned frequency and absorbs an earlier MOD (43_modify.md R163, R166, R167). -/

namespace Sys2Proof.Machine

/-- Down to 50 kHz below a grid frequency of the band the grid quantiser goes up to it, the exact half included (R100). -/
theorem gridQuant_of_le_half_below {f g : Nat} (hband : 87500 ≤ g ∧ g ≤ 108000) (hgrid : g % 100 = 0) (hle : f ≤ g)
    (hhalf : g ≤ f + 50) : gridQuant f = g := by
  rw [gridQuant_eq]
  omega

/-- The two mutators in turn are one: the later, unless it leaves the bit (R162, R167). -/
theorem mutateBit7_mutateBit7 (op op' : MutOp) (b : Byte) :
    mutateBit7 op' (mutateBit7 op b) = mutateBit7 (if op' = .nop then op else op') b := by
  have hreplaced (v : Bool) : withBit7 (mutateBit7 op b) v = withBit7 b v := by
    rw [mutateBit7_eq_withBit7, withBit7_withBit7]
  cases op' with
  | nop => rfl
  | set => exact hreplaced true
  | clr => exact hreplaced false

/-- The frame of a MOD, byte by byte (R161, R162, R163). -/
theorem modifyFrame_eq (f : Frame) (m st : MutOp) :
    modifyFrame f m st = ⟨withBit7 f.byte0 (m == .set), f.byte1, mutateBit7 st f.byte2, Config.deemph50, 0x00⟩ := by
  rw [← byte0_modifyFrame f m st]
  rfl

/-- Reconstruction has already cleared the mute bit (R161, R163). -/
theorem modifyFrame_nop_eq_clr (f : Frame) (st : MutOp) : modifyFrame f .nop st = modifyFrame f .clr st := by
  rw [modifyFrame_eq, modifyFrame_eq]
  rfl

theorem modifyFrame_modifyFrame (f : Frame) (m m' st st' : MutOp) :
    modifyFrame (modifyFrame f m st) m' st' = modifyFrame f m' (if st' = .nop then st else st') := by
  simp only [modifyFrame_eq, withBit7_withBit7, mutateBit7_mutateBit7]

end Sys2Proof.Machine

namespace Sys2Proof.Spec

open Sys2Proof.Machine

theorem rspOf_mod (f : Frame) (m st : MutOp) :
    rspOf (.mod f m st) = responseWord .ok (framePayload (modifyFrame f m st)) :=
  rspOf_of_exec (by rw [exec_mod, respondOk_eq])

/-- Settles O35: the frame answered has the PLL word of the operand, and DEC's frequency is a function of that word. -/
theorem modPreservesTheFrequency : Obligations.ModPreservesTheFrequency := by
  intro f m st
  have hpll : pllField (frameOf (.mod f m st)) = pllField f := by rw [frameOf_mod, pllField_modifyFrame]
  refine ⟨hpll, ?_⟩
  rw [decodedFreq_eq_decodedKHz, decodedFreq_eq_decodedKHz, decodedKHz, hpll, decodedKHz]

/-- Settles O36: the response is that of the frame answered, and of frames two MODs are one. -/
theorem modAbsorbsEarlierMods : Obligations.ModAbsorbsEarlierMods := by
  intro f m m' st st'
  refine ⟨?nopIsClr, ?absorbs, ?idempotent⟩
  case nopIsClr => rw [rspOf_mod, rspOf_mod, modifyFrame_nop_eq_clr]
  case absorbs => rw [rspOf_mod, rspOf_mod, frameOf_mod, modifyFrame_modifyFrame]
  case idempotent => rw [rspOf_mod, rspOf_mod, frameOf_mod, modifyFrame_modifyFrame, ite_self]

/-- Settles O20: the PLL quantiser loses less than one step, so a grid frequency comes back at most 8 kHz below, from where
the grid quantiser recovers it. -/
theorem pllRoundTripBounds : Obligations.PllRoundTripBounds := by
  refine ⟨fun f _ _ => ?bounds, fun f => ?recovers⟩
  case bounds =>
    obtain ⟨hfloor, hstep⟩ := pllOfKHz_floor f
    exact ⟨by omega, by omega, khzOfPll_pllOfKHz_near f⟩
  case recovers =>
    intro g
    have hband : 87500 ≤ g ∧ g ≤ 108000 := gridQuant_mem_band f
    obtain ⟨hle, hnear⟩ := khzOfPll_pllOfKHz_near g
    exact gridQuant_of_le_half_below hband (gridQuant_mod_grid f) (by omega) (by omega)

end Sys2Proof.Spec
end

section
/-! PROOFS. InvalidFrequency as the answer of an ENC out of the band alone (41_encode.md R121; 60_exceptions.md R200). -/

namespace Sys2Proof.Machine

/-- A response word has one status (R61). -/
theorem status_eq_of_responseWord_eq {e e' : Status} {p p' : Payload} (h : responseWord e p = responseWord e' p') :
    e = e' := by
  simpa using congrArg statusOf h

/-- Every instruction completes with a payload, but for an ENC out of the band (R101, R121, R142, R168, R200). -/
theorem exec_completes_or_encOutOfBand (i : Instr) : (∃ p, ∀ s, exec i s = .next (respondOk p s)) ∨
    ∃ f m st d, i = .enc f m st d ∧ inBand f.toNat = false := by
  cases i with
  | enc f m st d =>
    cases h : inBand f.toNat
    · exact .inr ⟨f, m, st, d, rfl, h⟩
    · exact .inl ⟨_, exec_enc_inBand h m st d⟩
  | _ => exact .inl ⟨_, fun s => rfl⟩

/-- The response of R68 to an ENC out of the band, and to no other word. -/
theorem codec_eq_invalidFrequency_iff {w : ReqWord} : codec w = responseWord .invalidFrequency 0 ↔
    ∃ f m st d, decode w = .legal (.enc f m st d) ∧ inBand f.toNat = false := by
  refine ⟨fun hcodec => ?onlyEnc, fun ⟨f, m, st, d, henc, hband⟩ => ?enc⟩
  case onlyEnc =>
    cases h : decode w with
    | illegal why => cases status_eq_of_responseWord_eq ((codec_illegal h).symm.trans hcodec)
    | legal i =>
      obtain ⟨p, hok⟩ | ⟨f, m, st, d, rfl, hband⟩ := exec_completes_or_encOutOfBand i
      · have hcompletes : codec w = responseWord .ok p :=
          codec_of_answer (by rw [answer_legal h, hok, respondOk_eq])
        cases status_eq_of_responseWord_eq (hcompletes.symm.trans hcodec)
      · exact ⟨f, m, st, d, rfl, hband⟩
  case enc => exact codec_of_answer (by rw [answer_legal henc, exec_enc_outOfBand hband, raise_eq])

end Sys2Proof.Machine

namespace Sys2Proof.Spec

open Sys2Proof.Machine

/-- Settles O13: the word is InvalidFrequency's response, which only an ENC out of the band is answered with. -/
theorem invalidFrequencyIsEncOutOfBand : Obligations.InvalidFrequencyIsEncOutOfBand := by
  intro w
  have hword : responseWord .invalidFrequency 0 = 0x100000000000#48 := rfl
  rw [← hword, codec_eq_invalidFrequency_iff]
  simp only [inBand_eq_false_iff]

end Sys2Proof.Spec
end

section
/-! PROOFS. Every step goes on, but for a frequency that is no number (70_reset_and_hazards.md R242;
93_implementation_defined.md U11). -/

namespace Sys2Proof.Machine

open Sys2Proof.Spec

/-- The machine goes on: neither a fault nor a refusal. -/
def GoesOn (o : Result) : Prop := ∃ t, o = .next t

section
variable (s : State)

/-- A read goes on whatever the bus answers, if what follows it does. -/
theorem busRead_goesOn {next : Frame → State → Result} (hnext : ∀ f u, GoesOn (next f u)) :
    GoesOn (busRead s next) := by
  cases ha : busAnswer s with
  | done raw =>
    rw [busRead_done ha]
    exact hnext _ _
  | failed c left => exact ⟨_, busRead_failed ha next⟩

/-- A write goes on whatever the bus answers, if what follows it does. -/
theorem busWrite_goesOn (f : Frame) (kind : WriteKind) {next : State → Result} (hnext : ∀ u, GoesOn (next u)) :
    GoesOn (busWrite f kind s next) := by
  cases ha : busAnswer s with
  | done raw =>
    rw [busWrite_done ha]
    exact hnext _
  | failed c left => exact ⟨_, busWrite_failed ha f kind next⟩

theorem writeTune_goesOn (f : FreqKHz) : GoesOn (writeTune f s) := by
  obtain ⟨_, -, e⟩ | ⟨_, _, _, -, e⟩ := writeTune_cases answer_encode f s
  · exact ⟨_, e⟩
  · exact ⟨_, e⟩

theorem hostStep_goesOn (dir : Direction) : GoesOn (hostStep dir s) := by
  obtain ⟨cur, -, e⟩ | ⟨c, left, -, -, e⟩ | ⟨raw, -, -, e⟩ := hostStep_cases answer_encode dir s
  · rw [e]
    exact writeTune_goesOn s _
  · exact ⟨_, e⟩
  · rw [e]
    exact writeTune_goesOn _ _

theorem modifyWrite_goesOn (m st : MutOp) (update : SoftState → SoftState) : GoesOn (modifyWrite m st update s) := by
  obtain ⟨_, _, -, e⟩ | ⟨_, _, _, _, -, -, e⟩ | ⟨_, _, -, -, e⟩ := modifyWrite_cases answer_encode m st update s
  · exact ⟨_, e⟩
  · exact ⟨_, e⟩
  · exact ⟨_, e⟩

theorem hostReadStatus_goesOn : GoesOn (hostReadStatus s) := by
  obtain ⟨_, _, -, e⟩ | ⟨_, -, e⟩ := hostReadStatus_cases answer_encode s
  · exact ⟨_, e⟩
  · exact ⟨_, e⟩

/-- The one action that stops the machine is TUNE_TO of what is no finite number (U11; log 14). -/
theorem perform_goesOn {a : HostAction} (ha : a ≠ .tuneTo .notFinite) : GoesOn (perform a s) := by
  cases a with
  | request w => exact ⟨_, hostRequest_eq_took w s⟩
  | busRead => exact busRead_goesOn s fun f u => ⟨returning (.frame f) u, rfl⟩
  | busWrite f kind => exact busWrite_goesOn s f kind fun u => ⟨returning .done u, rfl⟩
  | tuneTo freq =>
    cases freq with
    | mhz x => exact writeTune_goesOn s _
    | notFinite => exact absurd rfl ha
  | stepTune dir => exact hostStep_goesOn s dir
  | mute => exact modifyWrite_goesOn s _ _ _
  | unmute => exact modifyWrite_goesOn s _ _ _
  | setMono flag => exact modifyWrite_goesOn s _ _ _
  | readStatus => exact hostReadStatus_goesOn s
  | settle ms => exact ⟨_, rfl⟩
  | restart => exact ⟨_, rfl⟩
  | chipPowerOn => exact ⟨_, rfl⟩
  | codecReset => exact ⟨_, rfl⟩

theorem perform_tuneTo_notFinite : perform (.tuneTo .notFinite) s = .refused .nonFiniteFrequency := rfl

end

end Sys2Proof.Machine

namespace Sys2Proof.Spec

open Sys2Proof.Machine

/-- Settles O49: a presented request is answered, an idle machine waits, and of the host's actions one alone is refused. -/
theorem everyStepGoesOnButForNonFinite : Obligations.EveryStepGoesOnButForNonFinite := by
  intro s
  cases hreq : s.req with
  | some w => exact .inl ⟨_, (step_request hreq).trans (answer_eq_driveRsp_codec w _)⟩
  | none =>
    cases hagenda : s.agenda with
    | nil => exact .inl ⟨s, step_idle hreq hagenda⟩
    | cons a rest =>
      rw [step_hostAction hreq hagenda]
      by_cases ha : a = .tuneTo .notFinite
      · subst ha
        exact .inr ⟨rfl, rfl, perform_tuneTo_notFinite _⟩
      · exact .inl (perform_goesOn _ ha)

end Sys2Proof.Spec
end
